-- ==== Sys2Proof/Word.lean ====
section
/-! DEFINITION. The value types of the BSO core's buses (spec/10_state.md R23, R24; spec/30_encoding.md R61). -/

namespace Sys2Proof

/-- A `W`-bit value of an operand or result bus: a set, in which bit `i` is element `i` (R10, R12, R41). -/
abbrev SetWord (w : Nat) := BitVec w

/-- The 40-bit command word of the `cmd` port (`CMD_W = 40`, R8, R60). -/
abbrev CmdWord := BitVec 40

/-- A 16-bit count, of a command field or of the `rcnt` port (`AMT_W = CNT_W = 16`, R8). -/
abbrev CountWord := BitVec 16

/-- The 2-bit error code of the `err` port (`ERR_W = 2`, R8, R240). -/
abbrev ErrWord := BitVec 2

end Sys2Proof
end

