-- ==== Sys2Proof/Config.lean ====
section
/-! DEFINITION. The elaboration-time parameters of an instance of the BSO core (spec/00_scope.md R6, R7, R9).
The spec leaves no value free, so there is no free value here. -/

namespace Sys2Proof

/-- The parameter list `(W, ROTL_WIN, ROTR_WIN, SHR_WIN, TRACE_EN)` of one instance (R6, R7, R9, R272).
`TRACE_EN` is 0 or 1 by R9, so it is a `Bool` (log 5). -/
structure Params where
  /-- `W`, the universe width in bits (R6). -/
  W : Nat
  /-- `ROTL_WIN`, the rotation window of rotate-left (R7). -/
  rotlWin : Nat
  /-- `ROTR_WIN`, the rotation window of rotate-right (R7). -/
  rotrWin : Nat
  /-- `SHR_WIN`, the operative window of shift-right (R7). -/
  shrWin : Nat
  /-- `TRACE_EN`: whether the instance has the trace port (R9, R256). -/
  traceEn : Bool
deriving DecidableEq, Repr

/-- The consistent configuration of width `w`: every window is the whole universe (R7 (a), R118). -/
def Params.consistent (w : Nat) : Params :=
  { W := w, rotlWin := w, rotrWin := w, shrWin := w, traceEn := false }

/-- The defaults `(256, 256, 256, 256, 0)` (R6, R7, R9). -/
def Params.default : Params := Params.consistent 256

/-- The legacy compatibility configuration `ROTL_WIN = 8, ROTR_WIN = 4, SHR_WIN = 4` (R7 (b); needs `8 ≤ w`). -/
def Params.legacy (w : Nat) : Params :=
  { W := w, rotlWin := 8, rotrWin := 4, shrWin := 4, traceEn := false }

end Sys2Proof
end

