-- ==== Sys2Proof/Syntax.lean ====
section
/-! DEFINITION. The commands of the BSO core: one constructor per row of spec/opcode_table.json (spec/30_encoding.md R66).
A constructor carries the count operands its format reads and no others (R62, R64). Counts are natural numbers, as in the
source's parameter lists; `Instr.wellFormed` says which of them a 16-bit field can carry (R63, log 8). The data operands
travel on the ports `a` and `b`, not in the command (R60). -/

namespace Sys2Proof

/-- The commands, in the order of the opcode map (R66). -/
inductive Instr where
  /-- AND `a, b` (R100). -/
  | and
  /-- OR `a, b` (R101). -/
  | or
  /-- XOR `a, b` (R102). -/
  | xor
  /-- NOT `a` (R103). -/
  | not
  /-- SHL `a, #positions` (R110). -/
  | shl (positions : Nat)
  /-- SHR `a, #positions` (R112). -/
  | shr (positions : Nat)
  /-- ROTL `a, #positions` (R114). -/
  | rotl (positions : Nat)
  /-- ROTR `a, #positions` (R116). -/
  | rotr (positions : Nat)
  /-- CLEAR `a, mask` (R130). -/
  | clear
  /-- SET `a, mask` (R131). -/
  | set
  /-- TOGGLE `a, mask` (R132). -/
  | toggle
  /-- EXTRACT `a, #start, #length` (R141). -/
  | extract (start length : Nat)
  /-- CLZ `a` (R142). -/
  | clz
  /-- CTZ `a` (R143). -/
  | ctz
  /-- UNION `A, B` (R160). -/
  | union
  /-- INTER `A, B` (R161). -/
  | inter
  /-- DIFF `A, B` (R162). -/
  | diff
  /-- SYMDIFF `A, B` (R163). -/
  | symdiff
  /-- COMPL `A` (R164). -/
  | compl
  /-- ISSUB `A, B` (R170). -/
  | issub
  /-- ISSUPER `A, B` (R171). -/
  | issuper
  /-- CARD `A` (R172). -/
  | card
  /-- ISEMPTY `A` (R173). -/
  | isempty
  /-- MIN `A` (R174). -/
  | min
  /-- MAX `A` (R175). -/
  | max
  /-- SHLUNION `A, B, #positions` (R190). -/
  | shlunion (positions : Nat)
  /-- SHRINTER `A, B, #positions` (R191). -/
  | shrinter (positions : Nat)
  /-- ROTLDIFF `A, B, #positions` (R192). -/
  | rotldiff (positions : Nat)
  /-- ROTRSYMDIFF `A, B, #positions` (R193). -/
  | rotrsymdiff (positions : Nat)
  /-- CLRELEM `A, mask` (R194). -/
  | clrelem
  /-- SETELEM `A, mask` (R195). -/
  | setelem
  /-- TGLELEM `A, mask` (R196). -/
  | tglelem
  /-- EXTSUB `A, #start, #length` (R197). -/
  | extsub (start length : Nat)
  /-- SCLZ `A` (R198). -/
  | sclz
  /-- SCTZ `A` (R199). -/
  | sctz
deriving DecidableEq, Repr

/-- The five operand formats (R62). -/
inductive Format where
  /-- reads `a` -/
  | u
  /-- reads `a`, `b` -/
  | b
  /-- reads `a`, `n1` -/
  | p
  /-- reads `a`, `b`, `n1` -/
  | bp
  /-- reads `a`, `n1`, `n2` -/
  | x
deriving DecidableEq, Repr

/-- The three result kinds: which result port carries the result (R26). -/
inductive Kind where
  /-- the result is on `rset` -/
  | set
  /-- the result is on `rcnt` -/
  | cnt
  /-- the result is on `rflag` -/
  | bool
deriving DecidableEq, Repr

/-- Why a command word is no command (R67, R68). -/
inductive DecodeError where
  /-- `cmd[7:6]` is not `00` (R68). -/
  | reservedField
  /-- `cmd[5:0]` is one of the 29 reserved opcode values (R67). -/
  | reservedOpcode
deriving DecidableEq, Repr

end Sys2Proof
end

