-- ==== Sys2Proof/WellFormed.lean ====
section
/-! DEFINITION. What a command word can carry, and which parameter sets are instances of the hardware. -/

namespace Sys2Proof

/-- A count operand fits its 16-bit field: `0 .. 65535` (R14, R63). -/
abbrev countFits (n : Nat) : Bool := decide (n ≤ 65535)

/-- A command whose count operands can be presented to the hardware (R63; spec/93_implementation_defined.md U12). -/
def Instr.wellFormed : Instr → Bool
  | .and | .or | .xor | .not => true
  | .shl n | .shr n | .rotl n | .rotr n => countFits n
  | .clear | .set | .toggle => true
  | .extract st len => countFits st && countFits len
  | .clz | .ctz => true
  | .union | .inter | .diff | .symdiff | .compl => true
  | .issub | .issuper | .card | .isempty | .min | .max => true
  | .shlunion n | .shrinter n | .rotldiff n | .rotrsymdiff n => countFits n
  | .clrelem | .setelem | .tglelem => true
  | .extsub st len => countFits st && countFits len
  | .sclz | .sctz => true

/-- The bounds of R272: a parameter set outside them "is not an instance of this hardware". -/
abbrev Params.Legal (p : Params) : Prop :=
  (1 ≤ p.W ∧ p.W ≤ 32768) ∧ (1 ≤ p.rotlWin ∧ p.rotlWin ≤ p.W) ∧
    (1 ≤ p.rotrWin ∧ p.rotrWin ≤ p.W) ∧ (1 ≤ p.shrWin ∧ p.shrWin ≤ p.W)

end Sys2Proof
end

