-- ==== Sys2Proof/Decode.lean ====
section
/-! DEFINITION. The command word: its fields (R61), the opcode map (R66), formats and kinds (R62, R26), the total decoder
(R70), and the encoder (R61, R71). Conventions of numbering: bit 0 is the least significant bit (R41). -/

namespace Sys2Proof

/-! ## Fields of a command word (R61) -/

/-- `n2 = cmd[39:24]` (R61). -/
def cmdN2 (c : CmdWord) : CountWord := c.extractLsb' 24 16

/-- `n1 = cmd[23:8]` (R61). -/
def cmdN1 (c : CmdWord) : CountWord := c.extractLsb' 8 16

/-- `rsv = cmd[7:6]` (R61). -/
def cmdRsv (c : CmdWord) : BitVec 2 := c.extractLsb' 6 2

/-- `opc = cmd[5:0]` (R61). -/
def cmdOpc (c : CmdWord) : BitVec 6 := c.extractLsb' 0 6

/-- The word with these fields (R61). -/
def cmdOfFields (n2 n1 : CountWord) (rsv : BitVec 2) (opc : BitVec 6) : CmdWord :=
  n2 ++ n1 ++ rsv ++ opc

/-! ## The opcode map (R65, R66) -/

/-- The opcode of a command (R66). Bit 5 is the layer bit (R65). -/
def Instr.opcode : Instr → BitVec 6
  | .and => 0x00#6
  | .or => 0x01#6
  | .xor => 0x02#6
  | .not => 0x03#6
  | .shl _ => 0x04#6
  | .shr _ => 0x05#6
  | .rotl _ => 0x06#6
  | .rotr _ => 0x07#6
  | .clear => 0x08#6
  | .set => 0x09#6
  | .toggle => 0x0A#6
  | .extract _ _ => 0x0B#6
  | .clz => 0x0C#6
  | .ctz => 0x0D#6
  | .union => 0x20#6
  | .inter => 0x21#6
  | .diff => 0x22#6
  | .symdiff => 0x23#6
  | .compl => 0x24#6
  | .issub => 0x25#6
  | .issuper => 0x26#6
  | .card => 0x27#6
  | .isempty => 0x28#6
  | .min => 0x29#6
  | .max => 0x2A#6
  | .shlunion _ => 0x2B#6
  | .shrinter _ => 0x2C#6
  | .rotldiff _ => 0x2D#6
  | .rotrsymdiff _ => 0x2E#6
  | .clrelem => 0x2F#6
  | .setelem => 0x30#6
  | .tglelem => 0x31#6
  | .extsub _ _ => 0x32#6
  | .sclz => 0x33#6
  | .sctz => 0x34#6

/-- The format of a command (R62, R66). -/
def Instr.format : Instr → Format
  | .and | .or | .xor => .b
  | .not => .u
  | .shl _ | .shr _ | .rotl _ | .rotr _ => .p
  | .clear | .set | .toggle => .b
  | .extract _ _ => .x
  | .clz | .ctz => .u
  | .union | .inter | .diff | .symdiff => .b
  | .compl => .u
  | .issub | .issuper => .b
  | .card | .isempty | .min | .max => .u
  | .shlunion _ | .shrinter _ | .rotldiff _ | .rotrsymdiff _ => .bp
  | .clrelem | .setelem | .tglelem => .b
  | .extsub _ _ => .x
  | .sclz | .sctz => .u

/-- The result kind of a command (R26, R66). -/
def Instr.kind : Instr → Kind
  | .and | .or | .xor | .not => .set
  | .shl _ | .shr _ | .rotl _ | .rotr _ => .set
  | .clear | .set | .toggle | .extract _ _ => .set
  | .clz | .ctz => .cnt
  | .union | .inter | .diff | .symdiff | .compl => .set
  | .issub | .issuper => .bool
  | .card => .cnt
  | .isempty => .bool
  | .min | .max => .cnt
  | .shlunion _ | .shrinter _ | .rotldiff _ | .rotrsymdiff _ => .set
  | .clrelem | .setelem | .tglelem | .extsub _ _ => .set
  | .sclz | .sctz => .cnt

/-- The first count operand a command carries: `positions` or `start`; 0 where its format reads none (R62, R71). -/
def Instr.count1 : Instr → Nat
  | .shl n | .shr n | .rotl n | .rotr n => n
  | .shlunion n | .shrinter n | .rotldiff n | .rotrsymdiff n => n
  | .extract st _ | .extsub st _ => st
  | .and | .or | .xor | .not | .clear | .set | .toggle | .clz | .ctz => 0
  | .union | .inter | .diff | .symdiff | .compl | .issub | .issuper => 0
  | .card | .isempty | .min | .max | .clrelem | .setelem | .tglelem | .sclz | .sctz => 0

/-- The second count operand a command carries: `length`; 0 where its format reads none (R62, R71). -/
def Instr.count2 : Instr → Nat
  | .extract _ len | .extsub _ len => len
  | .shl _ | .shr _ | .rotl _ | .rotr _ => 0
  | .shlunion _ | .shrinter _ | .rotldiff _ | .rotrsymdiff _ => 0
  | .and | .or | .xor | .not | .clear | .set | .toggle | .clz | .ctz => 0
  | .union | .inter | .diff | .symdiff | .compl | .issub | .issuper => 0
  | .card | .isempty | .min | .max | .clrelem | .setelem | .tglelem | .sclz | .sctz => 0

/-! ## Which inputs a format reads (R62, R64) -/

/-- Whether the format reads port `b` (R62). -/
def Format.readsB : Format → Bool
  | .b | .bp => true
  | .u | .p | .x => false

/-- Whether the format reads field `n1` (R62). -/
def Format.readsN1 : Format → Bool
  | .p | .bp | .x => true
  | .u | .b => false

/-- Whether the format reads field `n2` (R62). -/
def Format.readsN2 : Format → Bool
  | .x => true
  | .u | .b | .p | .bp => false

/-- A command word with every field the format ignores forced to 0 (R64; the `trc_cmd` of R256). -/
def Format.keep (f : Format) (c : CmdWord) : CmdWord :=
  cmdOfFields (if f.readsN2 then cmdN2 c else 0#16) (if f.readsN1 then cmdN1 c else 0#16) (cmdRsv c) (cmdOpc c)

/-! ## Decoding (R70) -/

/-- The command an opcode stands for, with its count operands taken from the fields as they are (R63, R66); `none` for
the reserved values `0x0E .. 0x1F` and `0x35 .. 0x3F` (R67). -/
def instrOfOpcode (opc n1 n2 : Nat) : Option Instr :=
  match opc with
  | 0x00 => some .and
  | 0x01 => some .or
  | 0x02 => some .xor
  | 0x03 => some .not
  | 0x04 => some (.shl n1)
  | 0x05 => some (.shr n1)
  | 0x06 => some (.rotl n1)
  | 0x07 => some (.rotr n1)
  | 0x08 => some .clear
  | 0x09 => some .set
  | 0x0A => some .toggle
  | 0x0B => some (.extract n1 n2)
  | 0x0C => some .clz
  | 0x0D => some .ctz
  | 0x20 => some .union
  | 0x21 => some .inter
  | 0x22 => some .diff
  | 0x23 => some .symdiff
  | 0x24 => some .compl
  | 0x25 => some .issub
  | 0x26 => some .issuper
  | 0x27 => some .card
  | 0x28 => some .isempty
  | 0x29 => some .min
  | 0x2A => some .max
  | 0x2B => some (.shlunion n1)
  | 0x2C => some (.shrinter n1)
  | 0x2D => some (.rotldiff n1)
  | 0x2E => some (.rotrsymdiff n1)
  | 0x2F => some .clrelem
  | 0x30 => some .setelem
  | 0x31 => some .tglelem
  | 0x32 => some (.extsub n1 n2)
  | 0x33 => some .sclz
  | 0x34 => some .sctz
  | _ => none

/-- The decoder: total on every 40-bit word, `rsv` checked before the opcode (R68, R70). -/
def decode (c : CmdWord) : Except DecodeError Instr :=
  if cmdRsv c ≠ 0#2 then .error .reservedField
  else
    match instrOfOpcode (cmdOpc c).toNat (cmdN1 c).toNat (cmdN2 c).toNat with
    | some i => .ok i
    | none => .error .reservedOpcode

/-! ## Encoding (R61, R71) -/

/-- The word of a command: its opcode, `rsv = 0`, its count operands, and 0 in every ignored field (R61, R64, R71). -/
def encode (i : Instr) : CmdWord :=
  cmdOfFields (BitVec.ofNat 16 i.count2) (BitVec.ofNat 16 i.count1) 0#2 i.opcode

/-! ## The opcode table's numbering -/

/-- The command word whose low `nbits` bits are `w`'s and whose other bits are 0. The table's bit `k` is `cmd[k]`: the
command is one word, presented whole on `cmd` (R60, R61; log 7). -/
def cmdOfTableWord (nbits w : Nat) : CmdWord := BitVec.ofNat 40 (w % 2 ^ nbits)

/-- What the decoder reads from a table row's word. No command has more than 40 bits (R60). -/
def decodeTableWord (nbits w : Nat) : Option Instr :=
  if nbits ≤ 40 then
    match decode (cmdOfTableWord nbits w) with
    | .ok i => some i
    | .error _ => none
  else none

end Sys2Proof
end

