-- ==== Sys2Proof/Machine/Bits.lean ====
section
/-! DEFINITION. The width functions and scans of spec/00_scope.md section 5: `trunc`, `lsb`, `msb`, `popcount`. -/

namespace Sys2Proof.Machine

/-- `trunc_n(v) = v mod 2^n`, the low `n` bits, on the `w` wires of `v` (section 5, "Width functions"). -/
def trunc {w : Nat} (n : Nat) (v : SetWord w) : SetWord w := BitVec.ofNat w (v.toNat % 2 ^ n)

/-- The least position at or above `i`, among the next `fuel` ones, where `v` has a 1; `i + fuel` if there is none. -/
def lowestFrom {w : Nat} (v : SetWord w) : Nat → Nat → Nat
  | 0, i => i
  | fuel + 1, i => if v.getLsbD i then i else lowestFrom v fuel (i + 1)

/-- `lsb(v)`: the least `i` with `v[i] = 1` (section 5, "Scans"). The spec applies it to no zero value. -/
def lsb {w : Nat} (v : SetWord w) : Nat := lowestFrom v w 0

/-- The greatest position below `n` where `v` has a 1; 0 if there is none. -/
def highestBelow {w : Nat} (v : SetWord w) : Nat → Nat
  | 0 => 0
  | n + 1 => if v.getLsbD n then n else highestBelow v n

/-- `msb(v)`: the greatest `i` with `v[i] = 1` (section 5, "Scans"). The spec applies it to no zero value. -/
def msb {w : Nat} (v : SetWord w) : Nat := highestBelow v w

/-- How many positions below `n` of `v` hold a 1. -/
def onesBelow {w : Nat} (v : SetWord w) : Nat → Nat
  | 0 => 0
  | n + 1 => onesBelow v n + (v.getLsbD n).toNat

/-- `popcount(v)`: the number of `i` with `v[i] = 1` (section 5, "Scans"; R172). -/
def popcount {w : Nat} (v : SetWord w) : Nat := onesBelow v w

end Sys2Proof.Machine
end

