-- ==== Sys2Proof/Machine/Errors.lean ====
section
/-! DEFINITION. The errors of the block and their codes on the `err` port (spec/60_exceptions.md R240). -/

namespace Sys2Proof.Machine

/-- The three errors (R240). -/
inductive Error where
  /-- EMPTY_SET: MIN or MAX of the empty set (R241). -/
  | emptySet
  /-- INVALID_RANGE: a bit range that leaves the universe (R242). -/
  | invalidRange
  /-- ILLEGAL_OP: a command word that is no command (R243). -/
  | illegalOp
deriving DecidableEq, Repr

/-- `err = 0`: OK (R240). -/
def errOk : ErrWord := 0#2

/-- The code of an error on `err` (R240). -/
def errCode : Error → ErrWord
  | .emptySet => 1#2
  | .invalidRange => 2#2
  | .illegalOp => 3#2

end Sys2Proof.Machine
end

