-- ==== Sys2Proof/Machine/Bpe.lean ====
section
/-! DEFINITION. The 14 functions of the primitive layer `bitmask_primitive_engine` (R33; spec/40 to spec/43), pure and
independent of ports, on values of any width. Counts are natural numbers (spec/93_implementation_defined.md U12). -/

namespace Sys2Proof.Machine

/-- `and(a, b)` (R100). -/
def bpeAnd {w : Nat} (a b : SetWord w) : SetWord w := a &&& b

/-- `or(a, b)` (R101). -/
def bpeOr {w : Nat} (a b : SetWord w) : SetWord w := a ||| b

/-- `xor(a, b)` (R102). -/
def bpeXor {w : Nat} (a b : SetWord w) : SetWord w := a ^^^ b

/-- `not(a)`: all `w` bits are flipped (R103). -/
def bpeNot {w : Nat} (a : SetWord w) : SetWord w := ~~~a

/-- `shiftLeft(a, n)`, over the whole width always (R110, R111). -/
def bpeShiftLeft {w : Nat} (a : SetWord w) (n : Nat) : SetWord w :=
  if n ≥ w then 0#w else a <<< n

/-- `shiftRight(a, n)` in the operative window `s = SHR_WIN`: mask, then shift (R112, R113). -/
def bpeShiftRight {w : Nat} (s : Nat) (a : SetWord w) (n : Nat) : SetWord w :=
  if n ≥ s then 0#w else trunc s a >>> n

/-- `rotateLeft(a, n)` in the rotation window `r = ROTL_WIN`, the amount modulo the window (R114, R115). -/
def bpeRotateLeft {w : Nat} (r : Nat) (a : SetWord w) (n : Nat) : SetWord w :=
  if n % r = 0 then trunc r a
  else trunc r (trunc r a <<< (n % r)) ||| (trunc r a >>> (r - n % r))

/-- `rotateRight(a, n)` in the rotation window `r = ROTR_WIN`, the amount modulo the window (R115, R116). -/
def bpeRotateRight {w : Nat} (r : Nat) (a : SetWord w) (n : Nat) : SetWord w :=
  if n % r = 0 then trunc r a
  else (trunc r a >>> (n % r)) ||| trunc r (trunc r a <<< (r - n % r))

/-- `clear(a, mask) = and(a, not(mask))` (R130). -/
def bpeClear {w : Nat} (a mask : SetWord w) : SetWord w := bpeAnd a (bpeNot mask)

/-- `set(a, mask) = or(a, mask)` (R131). -/
def bpeSet {w : Nat} (a mask : SetWord w) : SetWord w := bpeOr a mask

/-- `toggle(a, mask) = xor(a, mask)` (R132). -/
def bpeToggle {w : Nat} (a mask : SetWord w) : SetWord w := bpeXor a mask

/-- `extract(a, start, length)`: the range check comes first and its sum is exact (R140, R141). -/
def bpeExtract {w : Nat} (a : SetWord w) (start length : Nat) : Except Error (SetWord w) :=
  if start + length > w then .error .invalidRange else .ok (trunc length (a >>> start))

/-- `countLeadingZeros(a)`; the width for `a = 0` (R142). -/
def bpeCountLeadingZeros {w : Nat} (a : SetWord w) : Nat :=
  if a = 0#w then w else w - 1 - msb a

/-- `countTrailingZeros(a)`; the width for `a = 0` (R143). -/
def bpeCountTrailingZeros {w : Nat} (a : SetWord w) : Nat :=
  if a = 0#w then w else lsb a

end Sys2Proof.Machine
end

