-- ==== Sys2Proof/Machine/State.lean ====
section
/-! DEFINITION. The state of the model: the parameters of the instance and the value on every port (spec/10_state.md R23,
R24; spec/60_exceptions.md R256). The block itself stores nothing (R20, R21, R22, R29, R30, R31, R32, R40): there is no
register, no program counter, no flag, no memory to hold. -/

namespace Sys2Proof.Machine

/-- The request ports, as the caller holds them (R23). -/
structure Request (w : Nat) where
  /-- `req_valid`: the other request ports carry a request. -/
  valid : Bool
  /-- `cmd`, the command word. -/
  cmd : CmdWord
  /-- `a`, the first data operand. -/
  a : SetWord w
  /-- `b`, the second data operand or the mask. -/
  b : SetWord w
deriving DecidableEq, Repr

/-- The response ports, as an evaluation drives them (R24). -/
structure Response (w : Nat) where
  /-- `rsp_valid`, equal to `req_valid`. -/
  valid : Bool
  /-- `rset`, the set-valued result. -/
  rset : SetWord w
  /-- `rcnt`, the integer result. -/
  rcnt : CountWord
  /-- `rflag`, the boolean result: 1 is true. -/
  rflag : Bool
  /-- `err`, the error code (R240). -/
  err : ErrWord
deriving DecidableEq, Repr

/-- The trace ports of an instance with `TRACE_EN = 1` (R256). -/
structure TracePort (w : Nat) where
  /-- `trc_valid`: there is a record. -/
  valid : Bool
  /-- `trc_cmd` -/
  cmd : CmdWord
  /-- `trc_a` -/
  a : SetWord w
  /-- `trc_b` -/
  b : SetWord w
  /-- `trc_rset` -/
  rset : SetWord w
  /-- `trc_rcnt` -/
  rcnt : CountWord
  /-- `trc_rflag` -/
  rflag : Bool
deriving DecidableEq, Repr

/-- The parameters, which no step changes (R30, log 1), and the value on every port (log 2). The buses have exactly `W`
wires, so no bit at or above position `W` can be written down (R11). -/
structure State where
  /-- The elaboration-time parameters of this instance (R6, R7, R9). -/
  params : Params
  /-- The request ports. -/
  req : Request params.W
  /-- The response ports. -/
  rsp : Response params.W
  /-- The trace ports; `none` where the instance has none (R9). -/
  trc : Option (TracePort params.W)
deriving DecidableEq, Repr

/-- Machine faults: there are none. An error of this hardware is a value of the `err` port and the machine goes on
(spec/00_scope.md section 7 item 5, R246, R248), so no step ends in a fault and the type has no constructor. -/
inductive Fault
deriving DecidableEq, Repr

/-- Why a step is refused. -/
inductive Refusal where
  /-- Raised by an arm of `exec` whose instruction has no meaning yet; no arm does so now. Safe: the model stops. -/
  | notModelled (mnemonic : String)
  /-- Raised by `step` in a state whose parameters are outside the bounds of R272: it is no instance of this hardware
  (spec/93_implementation_defined.md U9; log 5). Safe: the model stops where there is no hardware. -/
  | illegalParameters
deriving DecidableEq, Repr

/-- Right after power-up of an instance with the default parameters (R6, R7, R9), its caller holding `req_valid = 0`:
every output is 0 (R28, R34, R271). What the caller drives on the request ports is not the spec's to say: zero, a DESIGN
CHOICE (log 3). -/
def State.reset : State :=
  { params := Params.default
    req := { valid := false, cmd := 0, a := 0, b := 0 }
    rsp := { valid := false, rset := 0, rcnt := 0, rflag := false, err := 0 }
    trc := none }

end Sys2Proof.Machine
end

