-- ==== Sys2Proof/Machine/Ops.lean ====
section
/-! DEFINITION. The shared operations on the ports: answering with a result of each kind (spec/10_state.md R26, R27),
raising an error (spec/60_exceptions.md R246, R248), the idle outputs (R28), and presenting a request (R25). There is no
return from an error: nothing was saved and the next transaction computes its own `err` (R249). -/

namespace Sys2Proof.Machine

/-- The outcome of a step of this machine. -/
abbrev StepOutcome := Host.Outcome State Fault Refusal

/-! ## The response of one transaction -/

/-- A successful response of kind SET (R26, R27). -/
def setResponse {w : Nat} (valid : Bool) (v : SetWord w) : Response w :=
  { valid := valid, rset := v, rcnt := 0, rflag := false, err := errOk }

/-- A successful response of kind CNT: the number zero-extended to the 16 wires of `rcnt` (R24, R26, R27). -/
def cntResponse {w : Nat} (valid : Bool) (n : Nat) : Response w :=
  { valid := valid, rset := 0, rcnt := BitVec.ofNat 16 n, rflag := false, err := errOk }

/-- A successful response of kind BOOL (R26, R27). -/
def flagResponse {w : Nat} (valid : Bool) (f : Bool) : Response w :=
  { valid := valid, rset := 0, rcnt := 0, rflag := f, err := errOk }

/-- The response of a failed transaction: the code on `err`, 0 on every result port (R27, R246). -/
def errorResponse {w : Nat} (valid : Bool) (e : Error) : Response w :=
  { valid := valid, rset := 0, rcnt := 0, rflag := false, err := errCode e }

/-- What the response ports carry while there is no request (R28). -/
def idleResponse {w : Nat} : Response w :=
  { valid := false, rset := 0, rcnt := 0, rflag := false, err := errOk }

/-! ## Driving the response ports -/

/-- Drive the response ports, and nothing else: no input is ever driven (R17). -/
def State.respond (s : State) (r : Response s.params.W) : State := { s with rsp := r }

/-- Complete with a W-bit result on `rset`; `rsp_valid` is `req_valid` (R24, R26). -/
def answerSet (s : State) (v : SetWord s.params.W) : StepOutcome :=
  .next (s.respond (setResponse s.req.valid v))

/-- Complete with an integer result on `rcnt` (R24, R26). -/
def answerCnt (s : State) (n : Nat) : StepOutcome :=
  .next (s.respond (cntResponse s.req.valid n))

/-- Complete with a boolean result on `rflag` (R24, R26, R29). -/
def answerFlag (s : State) (f : Bool) : StepOutcome :=
  .next (s.respond (flagResponse s.req.valid f))

/-- `raise E`: the shared way an error is taken. The error appears on `err` in the same transaction, every result port is
0, nothing is saved and control goes nowhere (R244, R246, R248). -/
def raise (s : State) (e : Error) : StepOutcome :=
  .next (s.respond (errorResponse s.req.valid e))

/-- Complete with a W-bit result, or raise the error the function failed with (R33, R197, R246). -/
def answerSetOrRaise (s : State) (r : Except Error (SetWord s.params.W)) : StepOutcome :=
  match r with
  | .ok v => answerSet s v
  | .error e => raise s e

/-- Complete with an integer result, or raise the error the function failed with (R174, R175, R246). -/
def answerCntOrRaise (s : State) (r : Except Error Nat) : StepOutcome :=
  match r with
  | .ok n => answerCnt s n
  | .error e => raise s e

/-! ## The caller's side of the request ports -/

/-- The caller presents a request and holds it (R25, R276): `req_valid = 1` with the command and the data operands. -/
def State.present (s : State) (c : CmdWord) (x y : SetWord s.params.W) : State :=
  { s with req := { valid := true, cmd := c, a := x, b := y } }

/-- The caller withdraws its request: `req_valid = 0`, whatever the other ports carry (R28). -/
def State.withdraw (s : State) : State := { s with req := { s.req with valid := false } }

/-- The caller presents a command word and leaves the operand ports as they are (log 4). -/
def State.presentWord (s : State) (c : CmdWord) : State :=
  { s with req := { s.req with valid := true, cmd := c } }

end Sys2Proof.Machine
end

