-- ==== Sys2Proof/Machine/Operands.lean ====
section
/-! DEFINITION. The operand forms of the five formats (spec/30_encoding.md R62, R63): the first data operand is on port `a`,
the second (or the mask) on port `b`; `positions` and `start` come from field `n1`, `length` from field `n2`, both as the
decoder reads them, neither extended, scaled nor reduced. What a format does not read, no meaning reads (R64). -/

namespace Sys2Proof.Machine

/-- The operand of format U: port `a` (R62). Also the data operand of formats P and X. -/
def operandA (s : State) : SetWord s.params.W := s.req.a

/-- The second operand, or the mask, of formats B and BP: port `b` (R12, R62). -/
def operandB (s : State) : SetWord s.params.W := s.req.b

/-- The `b` operand as the trace shows it: 0 where the format does not read it (R256). -/
def tracedB {w : Nat} (f : Format) (q : Request w) : SetWord w := if f.readsB then q.b else 0#w

/-- The command as the trace shows it: every ignored field forced to 0 (R64, R256). -/
def tracedCmd {w : Nat} (f : Format) (q : Request w) : CmdWord := f.keep q.cmd

end Sys2Proof.Machine
end

