-- ==== Sys2Proof/Machine/ExtractCount.lean ====
section
/-! DEFINITION. The meanings of the extractor and zero counter commands. (spec/43_extract_and_counts.md). -/

namespace Sys2Proof.Machine

/-- EXTRACT (R141; INVALID_RANGE by R242). -/
def execExtract (st len : Nat) (s : State) : StepOutcome :=
  answerSetOrRaise s (bpeExtract (operandA s) st len)

/-- CLZ (R142). -/
def execClz (s : State) : StepOutcome :=
  answerCnt s (bpeCountLeadingZeros (operandA s))

/-- CTZ (R143). -/
def execCtz (s : State) : StepOutcome :=
  answerCnt s (bpeCountTrailingZeros (operandA s))

end Sys2Proof.Machine
end

