-- ==== Sys2Proof/Machine/Logic.lean ====
section
/-! DEFINITION. The meanings of the bitwise logic commands. (spec/40_bitwise_logic.md). -/

namespace Sys2Proof.Machine

/-- AND (R100). -/
def execAnd (s : State) : StepOutcome :=
  answerSet s (bpeAnd (operandA s) (operandB s))

/-- OR (R101). -/
def execOr (s : State) : StepOutcome :=
  answerSet s (bpeOr (operandA s) (operandB s))

/-- XOR (R102). -/
def execXor (s : State) : StepOutcome :=
  answerSet s (bpeXor (operandA s) (operandB s))

/-- NOT (R103). -/
def execNot (s : State) : StepOutcome :=
  answerSet s (bpeNot (operandA s))

end Sys2Proof.Machine
end

