-- ==== Sys2Proof/Machine/Masked.lean ====
section
/-! DEFINITION. The meanings of the masked clear, set and toggle commands. (spec/42_masked_mutation.md). -/

namespace Sys2Proof.Machine

/-- CLEAR (R130). -/
def execClear (s : State) : StepOutcome :=
  answerSet s (bpeClear (operandA s) (operandB s))

/-- SET (R131). -/
def execSet (s : State) : StepOutcome :=
  answerSet s (bpeSet (operandA s) (operandB s))

/-- TOGGLE (R132). -/
def execToggle (s : State) : StepOutcome :=
  answerSet s (bpeToggle (operandA s) (operandB s))

end Sys2Proof.Machine
end

