-- ==== Sys2Proof/Machine/Flags.lean ====
section
/-! DEFINITION. The values of the one flag output, `rflag`: the three predicates of the set layer (spec/10_state.md R29;
spec/45_set_predicates_measures.md). No command reads a flag and no other command writes one. -/

namespace Sys2Proof.Machine

/-- `isSubset(A, B) = (and(A, B) == A)` (R170). -/
def saoIsSubset {w : Nat} (a b : SetWord w) : Bool := bpeAnd a b == a

/-- `isSuperset(A, B) = (and(A, B) == B)` (R171). -/
def saoIsSuperset {w : Nat} (a b : SetWord w) : Bool := bpeAnd a b == b

/-- `isEmpty(A) = (A == 0)` (R173). -/
def saoIsEmpty {w : Nat} (a : SetWord w) : Bool := a == 0#w

end Sys2Proof.Machine
end

