-- ==== Sys2Proof/Machine/Sao.lean ====
section
/-! DEFINITION. The set-valued and integer-valued functions of the set layer `set_algebra_ops` (spec/44, 45, 46), each by
its defining equation over the primitive layer (R2 (b), R33). The three predicates stand in Machine/Flags.lean. A function
that shifts or rotates takes the whole block's window as its first argument (R33). -/

namespace Sys2Proof.Machine

/-- `union(A, B)` (R160). -/
def saoUnion {w : Nat} (a b : SetWord w) : SetWord w := bpeOr a b

/-- `intersection(A, B)` (R161). -/
def saoIntersection {w : Nat} (a b : SetWord w) : SetWord w := bpeAnd a b

/-- `difference(A, B)` (R162). -/
def saoDifference {w : Nat} (a b : SetWord w) : SetWord w := bpeAnd a (bpeNot b)

/-- `symmetricDifference(A, B)` (R163). -/
def saoSymmetricDifference {w : Nat} (a b : SetWord w) : SetWord w := bpeXor a b

/-- `complement(A)` (R164). -/
def saoComplement {w : Nat} (a : SetWord w) : SetWord w := bpeNot a

/-- `cardinality(A)` (R172). -/
def saoCardinality {w : Nat} (a : SetWord w) : Nat := popcount a

/-- `min(A)`, which fails on the empty set (R174). -/
def saoMin {w : Nat} (a : SetWord w) : Except Error Nat :=
  if a = 0#w then .error .emptySet else .ok (lsb a)

/-- `max(A)`, which fails on the empty set (R175). -/
def saoMax {w : Nat} (a : SetWord w) : Except Error Nat :=
  if a = 0#w then .error .emptySet else .ok (msb a)

/-- `shiftLeftUnion(A, B, n)`: only `A` is shifted (R190). -/
def saoShiftLeftUnion {w : Nat} (a b : SetWord w) (n : Nat) : SetWord w := bpeOr (bpeShiftLeft a n) b

/-- `shiftRightIntersection(A, B, n)`: only `A` is shifted (R191). -/
def saoShiftRightIntersection {w : Nat} (s : Nat) (a b : SetWord w) (n : Nat) : SetWord w :=
  bpeAnd (bpeShiftRight s a n) b

/-- `rotateLeftDifference(A, B, n)`: only `A` is rotated (R192). -/
def saoRotateLeftDifference {w : Nat} (r : Nat) (a b : SetWord w) (n : Nat) : SetWord w :=
  bpeAnd (bpeRotateLeft r a n) (bpeNot b)

/-- `rotateRightSymmetricDifference(A, B, n)`: only `A` is rotated (R193). -/
def saoRotateRightSymmetricDifference {w : Nat} (r : Nat) (a b : SetWord w) (n : Nat) : SetWord w :=
  bpeXor (bpeRotateRight r a n) b

/-- `clearElements(A, mask)` (R194). -/
def saoClearElements {w : Nat} (a mask : SetWord w) : SetWord w := bpeClear a mask

/-- `setElements(A, mask)` (R195). -/
def saoSetElements {w : Nat} (a mask : SetWord w) : SetWord w := bpeSet a mask

/-- `toggleElements(A, mask)` (R196). -/
def saoToggleElements {w : Nat} (a mask : SetWord w) : SetWord w := bpeToggle a mask

/-- `extractSubset(A, start, length)`, the primitive's error passed on (R197). -/
def saoExtractSubset {w : Nat} (a : SetWord w) (start length : Nat) : Except Error (SetWord w) :=
  bpeExtract a start length

/-- `countLeadingZeros(A)` of the set layer (R198). -/
def saoCountLeadingZeros {w : Nat} (a : SetWord w) : Nat := bpeCountLeadingZeros a

/-- `countTrailingZeros(A)` of the set layer (R199). -/
def saoCountTrailingZeros {w : Nat} (a : SetWord w) : Nat := bpeCountTrailingZeros a

end Sys2Proof.Machine
end

