-- ==== Sys2Proof/Machine/SetBasic.lean ====
section
/-! DEFINITION. The meanings of the basic set algebra commands. (spec/44_set_algebra_basic.md). -/

namespace Sys2Proof.Machine

/-- UNION (R160). -/
def execUnion (s : State) : StepOutcome :=
  answerSet s (saoUnion (operandA s) (operandB s))

/-- INTER (R161). -/
def execInter (s : State) : StepOutcome :=
  answerSet s (saoIntersection (operandA s) (operandB s))

/-- DIFF (R162). -/
def execDiff (s : State) : StepOutcome :=
  answerSet s (saoDifference (operandA s) (operandB s))

/-- SYMDIFF (R163). -/
def execSymdiff (s : State) : StepOutcome :=
  answerSet s (saoSymmetricDifference (operandA s) (operandB s))

/-- COMPL (R164). -/
def execCompl (s : State) : StepOutcome :=
  answerSet s (saoComplement (operandA s))

end Sys2Proof.Machine
end

