-- ==== Sys2Proof/Machine/SetCompound.lean ====
section
/-! DEFINITION. The meanings of the compound and delegating set commands. (spec/46_set_compound_ops.md). -/

namespace Sys2Proof.Machine

/-- SHLUNION (R190). -/
def execShlunion (n : Nat) (s : State) : StepOutcome :=
  answerSet s (saoShiftLeftUnion (operandA s) (operandB s) n)

/-- SHRINTER (R191). -/
def execShrinter (n : Nat) (s : State) : StepOutcome :=
  answerSet s (saoShiftRightIntersection s.params.shrWin (operandA s) (operandB s) n)

/-- ROTLDIFF (R192). -/
def execRotldiff (n : Nat) (s : State) : StepOutcome :=
  answerSet s (saoRotateLeftDifference s.params.rotlWin (operandA s) (operandB s) n)

/-- ROTRSYMDIFF (R193). -/
def execRotrsymdiff (n : Nat) (s : State) : StepOutcome :=
  answerSet s (saoRotateRightSymmetricDifference s.params.rotrWin (operandA s) (operandB s) n)

/-- CLRELEM (R194). -/
def execClrelem (s : State) : StepOutcome :=
  answerSet s (saoClearElements (operandA s) (operandB s))

/-- SETELEM (R195). -/
def execSetelem (s : State) : StepOutcome :=
  answerSet s (saoSetElements (operandA s) (operandB s))

/-- TGLELEM (R196). -/
def execTglelem (s : State) : StepOutcome :=
  answerSet s (saoToggleElements (operandA s) (operandB s))

/-- EXTSUB (R197; INVALID_RANGE by R242). -/
def execExtsub (st len : Nat) (s : State) : StepOutcome :=
  answerSetOrRaise s (saoExtractSubset (operandA s) st len)

/-- SCLZ (R198). -/
def execSclz (s : State) : StepOutcome :=
  answerCnt s (saoCountLeadingZeros (operandA s))

/-- SCTZ (R199). -/
def execSctz (s : State) : StepOutcome :=
  answerCnt s (saoCountTrailingZeros (operandA s))

end Sys2Proof.Machine
end

