-- ==== Sys2Proof/Machine/SetMeasure.lean ====
section
/-! DEFINITION. The meanings of the predicate and measure commands. (spec/45_set_predicates_measures.md). -/

namespace Sys2Proof.Machine

/-- ISSUB (R170). -/
def execIssub (s : State) : StepOutcome :=
  answerFlag s (saoIsSubset (operandA s) (operandB s))

/-- ISSUPER (R171). -/
def execIssuper (s : State) : StepOutcome :=
  answerFlag s (saoIsSuperset (operandA s) (operandB s))

/-- CARD (R172). -/
def execCard (s : State) : StepOutcome :=
  answerCnt s (saoCardinality (operandA s))

/-- ISEMPTY (R173). -/
def execIsempty (s : State) : StepOutcome :=
  answerFlag s (saoIsEmpty (operandA s))

/-- MIN (R174; EMPTY_SET by R241). -/
def execMin (s : State) : StepOutcome :=
  answerCntOrRaise s (saoMin (operandA s))

/-- MAX (R175; EMPTY_SET by R241). -/
def execMax (s : State) : StepOutcome :=
  answerCntOrRaise s (saoMax (operandA s))

end Sys2Proof.Machine
end

