-- ==== Sys2Proof/Machine/ShiftRotate.lean ====
section
/-! DEFINITION. The meanings of the barrel shifter and rotator commands. (spec/41_shift_rotate.md). -/

namespace Sys2Proof.Machine

/-- SHL (R110, R111). -/
def execShl (n : Nat) (s : State) : StepOutcome :=
  answerSet s (bpeShiftLeft (operandA s) n)

/-- SHR (R112). -/
def execShr (n : Nat) (s : State) : StepOutcome :=
  answerSet s (bpeShiftRight s.params.shrWin (operandA s) n)

/-- ROTL (R114). -/
def execRotl (n : Nat) (s : State) : StepOutcome :=
  answerSet s (bpeRotateLeft s.params.rotlWin (operandA s) n)

/-- ROTR (R116). -/
def execRotr (n : Nat) (s : State) : StepOutcome :=
  answerSet s (bpeRotateRight s.params.rotrWin (operandA s) n)

end Sys2Proof.Machine
end

