-- ==== Sys2Proof/Machine/Dispatch.lean ====
section
/-! DEFINITION. One arm per command: the rule performed for a decoded opcode (spec/30_encoding.md R66, R70). -/

namespace Sys2Proof.Machine

def exec (i : Instr) (s : State) : Host.Outcome State Fault Refusal :=
  match i with
  | .and => Sys2Proof.Machine.execAnd s
  | .or => Sys2Proof.Machine.execOr s
  | .xor => Sys2Proof.Machine.execXor s
  | .not => Sys2Proof.Machine.execNot s
  | .shl n => Sys2Proof.Machine.execShl n s
  | .shr n => Sys2Proof.Machine.execShr n s
  | .rotl n => Sys2Proof.Machine.execRotl n s
  | .rotr n => Sys2Proof.Machine.execRotr n s
  | .clear => Sys2Proof.Machine.execClear s
  | .set => Sys2Proof.Machine.execSet s
  | .toggle => Sys2Proof.Machine.execToggle s
  | .extract st len => Sys2Proof.Machine.execExtract st len s
  | .clz => Sys2Proof.Machine.execClz s
  | .ctz => Sys2Proof.Machine.execCtz s
  | .union => Sys2Proof.Machine.execUnion s
  | .inter => Sys2Proof.Machine.execInter s
  | .diff => Sys2Proof.Machine.execDiff s
  | .symdiff => Sys2Proof.Machine.execSymdiff s
  | .compl => Sys2Proof.Machine.execCompl s
  | .issub => Sys2Proof.Machine.execIssub s
  | .issuper => Sys2Proof.Machine.execIssuper s
  | .card => Sys2Proof.Machine.execCard s
  | .isempty => Sys2Proof.Machine.execIsempty s
  | .min => Sys2Proof.Machine.execMin s
  | .max => Sys2Proof.Machine.execMax s
  | .shlunion n => Sys2Proof.Machine.execShlunion n s
  | .shrinter n => Sys2Proof.Machine.execShrinter n s
  | .rotldiff n => Sys2Proof.Machine.execRotldiff n s
  | .rotrsymdiff n => Sys2Proof.Machine.execRotrsymdiff n s
  | .clrelem => Sys2Proof.Machine.execClrelem s
  | .setelem => Sys2Proof.Machine.execSetelem s
  | .tglelem => Sys2Proof.Machine.execTglelem s
  | .extsub st len => Sys2Proof.Machine.execExtsub st len s
  | .sclz => Sys2Proof.Machine.execSclz s
  | .sctz => Sys2Proof.Machine.execSctz s

end Sys2Proof.Machine
end

