-- ==== Sys2Proof/Machine/Trace.lean ====
section
/-! DEFINITION. The trace port (spec/60_exceptions.md R256; spec/00_scope.md R9): a function of the current request and its
response, driven after the response and read by nothing. -/

namespace Sys2Proof.Machine

/-- The trace ports with no record: `trc_valid = 0`, the request part 0, the result part as the response ports (R256). -/
def quietTrace {w : Nat} (r : Response w) : TracePort w :=
  { valid := false, cmd := 0, a := 0, b := 0, rset := r.rset, rcnt := r.rcnt, rflag := r.rflag }

/-- The trace ports beside a response: one record for a successful command, as issued, and none otherwise (R246, R256).
`i?` is the decoded command, `none` where there is none. -/
def tracePorts {w : Nat} (i? : Option Instr) (q : Request w) (r : Response w) : TracePort w :=
  match i? with
  | some i =>
    if q.valid && r.err == errOk then
      { valid := true, cmd := tracedCmd i.format q, a := q.a, b := tracedB i.format q
        rset := r.rset, rcnt := r.rcnt, rflag := r.rflag }
    else quietTrace r
  | none => quietTrace r

/-- Drive the trace ports of an instance that has them (R9, R256). -/
def State.driveTrace (s : State) (i? : Option Instr) : State :=
  { s with trc := if s.params.traceEn then some (tracePorts i? s.req s.rsp) else none }

/-- Drive the trace ports of the next state, if there is one. -/
def traced (i? : Option Instr) : StepOutcome → StepOutcome
  | .next t => .next (t.driveTrace i?)
  | .fault f => .fault f
  | .refused r => .refused r

end Sys2Proof.Machine
end

