-- ==== Sys2Proof/Machine/Transaction.lean ====
section
/-! DEFINITION. One evaluation of the block (spec/10_state.md R25, R28; spec/30_encoding.md R70), over the performing of a
decoded command, which Step.lean supplies. -/

namespace Sys2Proof.Machine

/-- One transaction with the request on the ports: a word that is no command raises ILLEGAL_OP before any operand is looked
at (R70, R243, R247); else the decoded command is performed. -/
def transact (run : Instr → State → StepOutcome) (s : State) : StepOutcome :=
  match decode s.req.cmd with
  | .ok i => traced (some i) (run i s)
  | .error _ => traced none (raise s .illegalOp)

/-- With no request there is no transaction and every output is 0 (R28). -/
def idle (s : State) : StepOutcome := traced none (.next (s.respond idleResponse))

/-- One evaluation of the block on stable inputs (R25, R276). Parameters outside R272's bounds are no instance of this
hardware and are refused (log 5). -/
def evaluate (run : Instr → State → StepOutcome) (s : State) : StepOutcome :=
  if s.params.Legal then
    if s.req.valid then transact run s else idle s
  else .refused .illegalParameters

end Sys2Proof.Machine
end

