-- ==== Sys2Proof/Machine/Step.lean ====
section
/-! DEFINITION. The step of the machine: one evaluation of the block (spec/10_state.md R25). -/

namespace Sys2Proof.Machine

/-- One evaluation of the block on the request its caller holds (R25, R28, R70). -/
def step (s : State) : Host.Outcome State Fault Refusal := evaluate exec s

/-- The command word presented on `cmd` with `req_valid = 1`, the operand ports as they are: the block takes its command
from its caller, so this is all a fetch needs (R21, R25; log 4). -/
def State.withFetchWord (s : State) (nbits w : Nat) : State := s.presentWord (cmdOfTableWord nbits w)

end Sys2Proof.Machine
end

