-- ==== Sys2Proof/Machine/Caller.lean ====
section
/-! DEFINITION. What the spec says of the caller's side, outside the block: the pseudo-instructions (spec/30_encoding.md
R72), the encoding and the result of a script line (R71), the substitution of count operands that no 16-bit field can carry
(R63), the bytes of a value kept in byte-addressed storage (spec/20_memory.md R42), and the texts of the errors
(spec/60_exceptions.md R250). Nothing of `exec` or `step` uses any of it (log 9). -/

namespace Sys2Proof.Machine

/-- One line of a transaction script with its operands evaluated: a command and the values for `a` and `b` (R71). -/
structure ScriptLine (w : Nat) where
  /-- The command, with its count literals. -/
  instr : Instr
  /-- The value presented on `a`. -/
  a : SetWord w
  /-- The value presented on `b`; an assembler emits 0 where the format reads none. -/
  b : SetWord w
deriving DecidableEq, Repr

/-- The request a script line stands for (R71). -/
def lineRequest {w : Nat} (l : ScriptLine w) : Request w :=
  { valid := true, cmd := encode l.instr, a := l.a, b := l.b }

/-- What the `<dst>` of a script line stands for (R71). -/
inductive ScriptValue (w : Nat) where
  /-- the value on `rset` -/
  | set (v : SetWord w)
  /-- the value on `rcnt` -/
  | cnt (n : CountWord)
  /-- the value on `rflag` -/
  | flag (f : Bool)
deriving DecidableEq, Repr

/-- The result of a script line: the port of the command's kind, and none if the transaction failed (R26, R71). -/
def lineResult {w : Nat} (i : Instr) (r : Response w) : Option (ScriptValue w) :=
  if r.err = errOk then
    match i.kind with
    | .set => some (.set r.rset)
    | .cnt => some (.cnt r.rcnt)
    | .bool => some (.flag r.rflag)
  else none

/-- `FULLSET`: `COMPL EMPTY` (R72). -/
def pseudoFullset (w : Nat) : ScriptLine w := { instr := .compl, a := 0, b := 0 }

/-- `SINGLE #i`: `SHL 1, #i` (R72). -/
def pseudoSingle (w i : Nat) : ScriptLine w := { instr := .shl i, a := 1, b := 0 }

/-- `MEMBER A, #i`: `EXTSUB A, #i, #1` (R72). -/
def pseudoMember {w : Nat} (a : SetWord w) (i : Nat) : ScriptLine w := { instr := .extsub i 1, a := a, b := 0 }

/-- What a caller presents for an amount of a shift, or for a start or a length: the amount, or 65535 for a greater one
(R63). -/
def presentedAmount (p : Nat) : Nat := if p ≤ 65535 then p else 65535

/-- What a caller presents for an amount of a rotate within the window `r`: the amount, or `p mod r` for one above 65535
(R63). -/
def presentedRotate (r p : Nat) : Nat := if p ≤ 65535 then p else p % r

/-- Byte lane `k` of a bus, bits `[8k+7 : 8k]` (R42). -/
def byteLane {n : Nat} (v : BitVec n) (k : Nat) : BitVec 8 := v.extractLsb' (8 * k) 8

/-- The bytes of a value that a caller stores from an address on: lane 0 at the lowest address (R42). -/
def storedCells {n : Nat} (address : Nat) (v : BitVec n) : List Host.Cell :=
  (List.range ((n + 7) / 8)).map fun k => (address + k, byteLane v k)

/-- The number that bytes stand for, the one at the lowest address first (R42). -/
def numberOfBytes : List (BitVec 8) → Nat
  | [] => 0
  | b :: bs => b.toNat + 2 ^ 8 * numberOfBytes bs

/-- The text a caller may show for an error code; none for success (R250). -/
def errorText (e : ErrWord) : Option String :=
  match e.toNat with
  | 0 => none
  | 1 => some "operation undefined on empty set"
  | 2 => some "start + length exceeds universe width"
  | _ => some "illegal operation code"

end Sys2Proof.Machine
end

