-- ==== Sys2Proof/Safety.lean ====
section
/-! DEFINITION. The terms in which claims about the machine are made: what a command answers, what a caller gets from a
transaction, the rotated value, and the port values that belong together. Every answer names the whole next state, so it
is also the command's frame: nothing but the named output ports changes. -/

namespace Sys2Proof.Machine

/-! ## The table of R62 by opcodes, beside `Instr.format` and not through it -/

/-- The opcodes whose format, B or BP, reads port `b` (R62). -/
def opcodesReadingB : List Nat :=
  [0x00, 0x01, 0x02, 0x08, 0x09, 0x0A, 0x20, 0x21, 0x22, 0x23, 0x25, 0x26, 0x2F, 0x30, 0x31,
    0x2B, 0x2C, 0x2D, 0x2E]

/-- The opcodes whose format, P, BP or X, reads field `n1` (R62). -/
def opcodesReadingN1 : List Nat := [0x04, 0x05, 0x06, 0x07, 0x2B, 0x2C, 0x2D, 0x2E, 0x0B, 0x32]

/-- The opcodes whose format, X, reads field `n2` (R62). -/
def opcodesReadingN2 : List Nat := [0x0B, 0x32]

/-! ## What a command answers at the level of `exec` -/

/-- The command completes with a result on `rset` of which `p` holds; `rcnt`, `rflag` and `err` are 0 (R26, R27) and
nothing else changes. -/
def SetAnswer (i : Instr) (s : State) (p : SetWord s.params.W → Prop) : Prop :=
  ∃ v : SetWord s.params.W,
    exec i s = .next { s with rsp := { valid := s.req.valid, rset := v, rcnt := 0, rflag := false, err := 0 } } ∧ p v

/-- The command completes with a number on `rcnt` of which `p` holds; `rset`, `rflag` and `err` are 0 (R26, R27) and
nothing else changes. -/
def CntAnswer (i : Instr) (s : State) (p : Nat → Prop) : Prop :=
  ∃ c : CountWord,
    exec i s = .next { s with rsp := { valid := s.req.valid, rset := 0, rcnt := c, rflag := false, err := 0 } } ∧
      p c.toNat

/-- The command completes with `rflag` = 1 exactly if `p`; `rset`, `rcnt` and `err` are 0 (R26, R27) and nothing else
changes. -/
def FlagAnswer (i : Instr) (s : State) (p : Prop) : Prop :=
  ∃ f : Bool,
    exec i s = .next { s with rsp := { valid := s.req.valid, rset := 0, rcnt := 0, rflag := f, err := 0 } } ∧
      (f = true ↔ p)

/-- The command fails with this code on `err`; every result port is 0 (R246) and nothing else changes. -/
def ErrAnswer (i : Instr) (s : State) (code : ErrWord) : Prop :=
  exec i s = .next { s with rsp := { valid := s.req.valid, rset := 0, rcnt := 0, rflag := false, err := code } }

/-! ## What a caller gets from one transaction, at the level of `step` -/

/-- The caller of `s` presents command `i` with the operands `x`, `y`; one step answers `r` on the response ports, and
apart from them and the trace ports nothing changes. -/
def Gives (s : State) (i : Instr) (x y : SetWord s.params.W) (r : Response s.params.W) : Prop :=
  ∃ tr : Option (TracePort s.params.W),
    step { s with req := { valid := true, cmd := encode i, a := x, b := y } } =
      .next { s with req := { valid := true, cmd := encode i, a := x, b := y }, rsp := r, trc := tr }

/-- The transaction succeeds with `v` on `rset`. -/
def GivesSet (s : State) (i : Instr) (x y v : SetWord s.params.W) : Prop :=
  Gives s i x y { valid := true, rset := v, rcnt := 0, rflag := false, err := 0 }

/-- The transaction succeeds with the number `n` on `rcnt`. -/
def GivesCnt (s : State) (i : Instr) (x y : SetWord s.params.W) (n : Nat) : Prop :=
  ∃ c : CountWord, c.toNat = n ∧ Gives s i x y { valid := true, rset := 0, rcnt := c, rflag := false, err := 0 }

/-- The transaction succeeds with `f` on `rflag`. -/
def GivesFlag (s : State) (i : Instr) (x y : SetWord s.params.W) (f : Bool) : Prop :=
  Gives s i x y { valid := true, rset := 0, rcnt := 0, rflag := f, err := 0 }

/-- The transaction fails with `code` on `err`. -/
def GivesErr (s : State) (i : Instr) (x y : SetWord s.params.W) (code : ErrWord) : Prop :=
  Gives s i x y { valid := true, rset := 0, rcnt := 0, rflag := false, err := code }

/-! ## Rotated values, bit by bit -/

/-- `v` is `a` rotated left by `n` within the low `r` bits (R114, "Bit by bit"). -/
def IsRotl {w : Nat} (r n : Nat) (a v : SetWord w) : Prop :=
  (∀ i, i < r → v.getLsbD ((i + n % r) % r) = a.getLsbD i) ∧ ∀ j, r ≤ j → v.getLsbD j = false

/-- `v` is `a` rotated right by `n` within the low `r` bits (R116, "Bit by bit"). -/
def IsRotr {w : Nat} (r n : Nat) (a v : SetWord w) : Prop :=
  (∀ i, i < r → v.getLsbD i = a.getLsbD ((i + n % r) % r)) ∧ ∀ j, r ≤ j → v.getLsbD j = false

/-! ## Port values that belong together -/

/-- A response the block can drive: 0 on every result port of a failed transaction (R246), at most one result port in use
(R27), everything 0 without a request (R28), and no count above the width (R24). -/
def ResponseConsistent {w : Nat} (r : Response w) : Prop :=
  (r.err ≠ 0 → r.rset = 0 ∧ r.rcnt = 0 ∧ r.rflag = false) ∧
  (r.rset ≠ 0 → r.rcnt = 0 ∧ r.rflag = false) ∧
  (r.rcnt ≠ 0 → r.rset = 0 ∧ r.rflag = false) ∧
  (r.valid = false → r.rset = 0 ∧ r.rcnt = 0 ∧ r.rflag = false ∧ r.err = 0) ∧
  r.rcnt.toNat ≤ w

/-- Trace ports that belong to a response (R256). -/
def TraceConsistent {w : Nat} (p : TracePort w) (r : Response w) : Prop :=
  p.rset = r.rset ∧ p.rcnt = r.rcnt ∧ p.rflag = r.rflag ∧
  (p.valid = true ↔ r.valid = true ∧ r.err = 0) ∧
  (p.valid = false → p.cmd = 0 ∧ p.a = 0 ∧ p.b = 0)

/-- The invariant of the machine: a legal instance (R272), a response the block can drive, and trace ports exactly where
the instance has them (R9), belonging to that response. -/
def PortsConsistent (s : State) : Prop :=
  s.params.Legal ∧ ResponseConsistent s.rsp ∧ s.trc.isSome = s.params.traceEn ∧
    ∀ p, s.trc = some p → TraceConsistent p s.rsp

end Sys2Proof.Machine
end

