-- ==== Sys2Proof/Certificates/Slice0/Obligations.lean ====
section
/-! DEFINITION. The statements for the provers. Each formalises rules R<n> of spec/, named in its docstring. In a statement
about one command, the first part says which command words it is read from (R61, R62, R64, R66) and the second what it
answers in every state: the result and, since the whole next state is named, its frame. -/

open Sys2Proof Sys2Proof.Machine

/-! ## Reset, idle, instance, step -/

/-- The model's reset state is an idle instance with the spec's default parameters, and stays so (R6, R7, R9, R28, R34). That
the caller holds `req_valid = 0` at power-up is the model's choice (log 3), after R271's "if". -/
def Obligations.ResetIsIdleDefaultInstance : Prop :=
  State.reset.params = { W := 256, rotlWin := 256, rotrWin := 256, shrWin := 256, traceEn := false } ∧
  State.reset.req.valid = false ∧
  State.reset.rsp = { valid := false, rset := 0, rcnt := 0, rflag := false, err := 0 } ∧
  State.reset.trc = none ∧
  step State.reset = .next State.reset

/-- Without a request every output is 0 and there is no trace record, whatever the inputs carry (R28). -/
def Obligations.IdleDrivesZeroOnEveryOutput : Prop :=
  ∀ s : State, s.params.Legal → s.req.valid = false →
    step s = .next { s with
      rsp := { valid := false, rset := 0, rcnt := 0, rflag := false, err := 0 }
      trc := if s.params.traceEn then
          some { valid := false, cmd := 0, a := 0, b := 0, rset := 0, rcnt := 0, rflag := false }
        else none }

/-- A parameter set outside the bounds is refused, and one inside them never is (R272). That the step refuses it, and not
the construction of the instance, is the model's choice (log 5). -/
def Obligations.ParametersOutsideBoundsRefused : Prop :=
  ∀ s : State,
    step s = .refused .illegalParameters ↔
      (s.params.W < 1 ∨ 32768 < s.params.W ∨ s.params.rotlWin < 1 ∨ s.params.W < s.params.rotlWin ∨
        s.params.rotrWin < 1 ∨ s.params.W < s.params.rotrWin ∨ s.params.shrWin < 1 ∨ s.params.W < s.params.shrWin)

/-- A step with a request runs the decoded command and drives the trace ports beside it (R25, R70); that this happens
after the command, and not in it, is the model's choice (log 11). -/
def Obligations.StepRunsDecodedInstruction : Prop :=
  ∀ (s t : State) (i : Instr), s.params.Legal → s.req.valid = true → decode s.req.cmd = .ok i →
    exec i s = .next t →
    i.wellFormed = true ∧
    step s = .next { t with trc := if t.params.traceEn then some (tracePorts (some i) t.req t.rsp) else none }

/-- Every evaluation of a legal instance completes and drives no input and no parameter (R17, R30, R280). -/
def Obligations.StepCompletesAndDrivesOutputsOnly : Prop :=
  ∀ s : State, s.params.Legal →
    ∃ (r : Response s.params.W) (tr : Option (TracePort s.params.W)),
      step s = .next { s with rsp := r, trc := tr } ∧ r.valid = s.req.valid

/-- No command faults, is refused, or drives anything but the response ports (R17, R245, R280). -/
def Obligations.EveryCommandCompletes : Prop :=
  ∀ (i : Instr) (s : State), ∃ r : Response s.params.W,
    exec i s = .next { s with rsp := r } ∧ r.valid = s.req.valid

/-- A response depends on the present request alone: what the output ports carried before has no effect (R22, R46). -/
def Obligations.ResponseIndependentOfHistory : Prop :=
  ∀ (s : State) (r : Response s.params.W) (tr : Option (TracePort s.params.W)),
    step { s with rsp := r, trc := tr } = step s

/-- Presenting the same request again yields the same response and changes nothing (R44). -/
def Obligations.TransactionIsIdempotent : Prop :=
  ∀ s t : State, step s = .next t → step t = .next t

/-- A field or port that a format does not read has no effect on any output, whatever it carries; only `rsv` is checked
beside what is read; and an encoding has 0 in every ignored field (R64). What is read is fixed by the opcodes of R62. -/
def Obligations.IgnoredInputsHaveNoEffect : Prop :=
  (∀ (s : State) (c : CmdWord) (y : SetWord s.params.W),
    s.params.Legal → s.req.valid = true → (∃ i, decode s.req.cmd = .ok i) →
    c.toNat % 2 ^ 8 = s.req.cmd.toNat % 2 ^ 8 →
    (s.req.cmd.toNat % 2 ^ 6 ∈ opcodesReadingN1 →
      c.toNat / 2 ^ 8 % 2 ^ 16 = s.req.cmd.toNat / 2 ^ 8 % 2 ^ 16) →
    (s.req.cmd.toNat % 2 ^ 6 ∈ opcodesReadingN2 → c.toNat / 2 ^ 24 = s.req.cmd.toNat / 2 ^ 24) →
    (s.req.cmd.toNat % 2 ^ 6 ∈ opcodesReadingB → y = s.req.b) →
    ∃ (r : Response s.params.W) (tr : Option (TracePort s.params.W)),
      step s = .next { s with rsp := r, trc := tr } ∧
      step { s with req := { s.req with cmd := c, b := y } } =
        .next { s with req := { s.req with cmd := c, b := y }, rsp := r, trc := tr }) ∧
  ∀ i : Instr, i.wellFormed = true →
    ((encode i).toNat % 2 ^ 6 ∉ opcodesReadingN1 → (encode i).toNat / 2 ^ 8 % 2 ^ 16 = 0) ∧
    ((encode i).toNat % 2 ^ 6 ∉ opcodesReadingN2 → (encode i).toNat / 2 ^ 24 = 0)

/-! ## The invariant -/

/-- The reset state has consistent ports (R9, R28, R34, R272); that no request is presented in it is the model's choice
(log 3). -/
def Obligations.ResetPortsConsistent : Prop := PortsConsistent State.reset

/-- Every step keeps the ports consistent: a failed transaction drives 0 on every result port, at most one result port is
in use, an idle block drives 0, no count exceeds the width, and the trace ports are there exactly with `TRACE_EN` and show
the present response (R9, R24, R27, R28, R246, R256, R272). -/
def Obligations.StepKeepsPortsConsistent : Prop :=
  ∀ s t : State, PortsConsistent s → step s = .next t → PortsConsistent t

/-! ## Encoding -/

/-- Decoding the encoding of a command gives the command back, at every value of its count operands (R61, R66, R70). -/
def Obligations.DecodeEncodeRoundTrip : Prop :=
  ∀ i : Instr, i.wellFormed = true → decode (encode i) = .ok i

/-- A word that decodes to a command is that command's encoding but for the fields its format ignores (R61, R64, R66). -/
def Obligations.DecodedWordIsEncodingUpToIgnoredFields : Prop :=
  ∀ (c : CmdWord) (i : Instr), decode c = .ok i →
    i.wellFormed = true ∧
    (encode i).toNat =
      c.toNat % 2 ^ 8 +
      (if i.format = .p ∨ i.format = .bp ∨ i.format = .x then c.toNat / 2 ^ 8 % 2 ^ 16 * 2 ^ 8 else 0) +
      (if i.format = .x then c.toNat / 2 ^ 24 * 2 ^ 24 else 0)

/-- The field layout: a word is the number `n2 * 2^24 + n1 * 2^8 + rsv * 2^6 + opc` of its fields; a command reads its
`positions` or `start` from `n1` and its `length` from `n2`, and has `rsv = 00`; an encoding is the number of the same
fields (R61, R68). -/
def Obligations.CommandWordIsTheNumberOfItsFields : Prop :=
  (∀ c : CmdWord,
    c.toNat = (cmdN2 c).toNat * 2 ^ 24 + (cmdN1 c).toNat * 2 ^ 8 + (cmdRsv c).toNat * 2 ^ 6 + (cmdOpc c).toNat) ∧
  (∀ (c : CmdWord) (i : Instr), decode c = .ok i →
    i.opcode = cmdOpc c ∧ cmdRsv c = 0 ∧
    (∀ n, i = .shl n ∨ i = .shr n ∨ i = .rotl n ∨ i = .rotr n ∨ i = .shlunion n ∨ i = .shrinter n ∨ i = .rotldiff n ∨
      i = .rotrsymdiff n → n = (cmdN1 c).toNat) ∧
    ∀ st len, i = .extract st len ∨ i = .extsub st len → st = (cmdN1 c).toNat ∧ len = (cmdN2 c).toNat) ∧
  ∀ i : Instr, i.wellFormed = true →
    (encode i).toNat = i.count2 * 2 ^ 24 + i.count1 * 2 ^ 8 + i.opcode.toNat

/-- Every word is one of the 35 assigned operations or is illegal: assigned exactly if `rsv = 00` and the opcode is none of
the 29 reserved values (R67, R68, R69). -/
def Obligations.EveryWordIsAssignedOrIllegal : Prop :=
  ∀ c : CmdWord,
    (∃ i, decode c = .ok i) ↔
      c.toNat / 2 ^ 6 % 4 = 0 ∧
      ¬ ((0x0E ≤ c.toNat % 2 ^ 6 ∧ c.toNat % 2 ^ 6 ≤ 0x1F) ∨ (0x35 ≤ c.toNat % 2 ^ 6 ∧ c.toNat % 2 ^ 6 ≤ 0x3F))

/-- The worked encodings of R73 decode as it says; R73 is the spec's own derivation from R61 and R66. -/
def Obligations.WorkedEncodingsDecode : Prop :=
  decode 0x0000000020#40 = .ok .union ∧ decode 0x0004000432#40 = .ok (.extsub 4 4) ∧
  decode 0x000400040B#40 = .ok (.extract 4 4) ∧ decode 0x000000FF04#40 = .ok (.shl 255) ∧
  decode 0x000001012E#40 = .ok (.rotrsymdiff 257) ∧ decode 0x0000000060#40 = .error .reservedField ∧
  decode 0x000000000E#40 = .error .reservedOpcode

/-! ## Primitive layer -/

/-- AND, OR, XOR and NOT act bit by bit on all `W` bits (R100 to R103). -/
def Obligations.BitwiseLogicBitByBit : Prop :=
  (∀ c : CmdWord,
    (c.toNat % 2 ^ 8 = 0x00 → decode c = .ok .and) ∧ (c.toNat % 2 ^ 8 = 0x01 → decode c = .ok .or) ∧
    (c.toNat % 2 ^ 8 = 0x02 → decode c = .ok .xor) ∧ (c.toNat % 2 ^ 8 = 0x03 → decode c = .ok .not)) ∧
  ∀ s : State,
    SetAnswer .and s (fun v => ∀ j, j < s.params.W → v.getLsbD j = (s.req.a.getLsbD j && s.req.b.getLsbD j)) ∧
    SetAnswer .or s (fun v => ∀ j, j < s.params.W → v.getLsbD j = (s.req.a.getLsbD j || s.req.b.getLsbD j)) ∧
    SetAnswer .xor s (fun v => ∀ j, j < s.params.W → (v.getLsbD j = true ↔ s.req.a.getLsbD j ≠ s.req.b.getLsbD j)) ∧
    SetAnswer .not s (fun v => v.toNat = 2 ^ s.params.W - 1 - s.req.a.toNat ∧
      ∀ j, j < s.params.W → v.getLsbD j = !s.req.a.getLsbD j)

/-- SHL moves bit `j - n` to bit `j` over the whole width, fills with 0, and gives 0 for every amount `≥ W` (R110, R111). -/
def Obligations.ShiftLeftBitByBit : Prop :=
  (∀ c : CmdWord, c.toNat % 2 ^ 8 = 0x04 → decode c = .ok (.shl (c.toNat / 2 ^ 8 % 2 ^ 16))) ∧
  ∀ (s : State) (n : Nat),
    SetAnswer (.shl n) s (fun v =>
      v.toNat = s.req.a.toNat * 2 ^ n % 2 ^ s.params.W ∧
      ∀ j, j < s.params.W → v.getLsbD j = (decide (n ≤ j) && s.req.a.getLsbD (j - n)))

/-- SHR moves bit `j + n` of the low `SHR_WIN` bits to bit `j` and gives 0 for every amount `≥ SHR_WIN` (R112). -/
def Obligations.ShiftRightBitByBit : Prop :=
  (∀ c : CmdWord, c.toNat % 2 ^ 8 = 0x05 → decode c = .ok (.shr (c.toNat / 2 ^ 8 % 2 ^ 16))) ∧
  ∀ (s : State) (n : Nat),
    SetAnswer (.shr n) s (fun v =>
      v.toNat = s.req.a.toNat % 2 ^ s.params.shrWin / 2 ^ n ∧
      ∀ j, j < s.params.W → v.getLsbD j = (decide (j + n < s.params.shrWin) && s.req.a.getLsbD (j + n)))

/-- ROTL rotates the low `ROTL_WIN` bits left by the amount modulo `ROTL_WIN` and gives 0 above the window (R114). -/
def Obligations.RotateLeftBitByBit : Prop :=
  (∀ c : CmdWord, c.toNat % 2 ^ 8 = 0x06 → decode c = .ok (.rotl (c.toNat / 2 ^ 8 % 2 ^ 16))) ∧
  ∀ (s : State) (n : Nat), s.params.Legal →
    SetAnswer (.rotl n) s (fun v => IsRotl s.params.rotlWin n s.req.a v)

/-- ROTR rotates the low `ROTR_WIN` bits right by the amount modulo `ROTR_WIN` and gives 0 above the window (R116). -/
def Obligations.RotateRightBitByBit : Prop :=
  (∀ c : CmdWord, c.toNat % 2 ^ 8 = 0x07 → decode c = .ok (.rotr (c.toNat / 2 ^ 8 % 2 ^ 16))) ∧
  ∀ (s : State) (n : Nat), s.params.Legal →
    SetAnswer (.rotr n) s (fun v => IsRotr s.params.rotrWin n s.req.a v)

/-- CLEAR, SET and TOGGLE change exactly the positions the mask selects (R130 to R132). -/
def Obligations.MaskedMutationBitByBit : Prop :=
  (∀ c : CmdWord,
    (c.toNat % 2 ^ 8 = 0x08 → decode c = .ok .clear) ∧ (c.toNat % 2 ^ 8 = 0x09 → decode c = .ok .set) ∧
    (c.toNat % 2 ^ 8 = 0x0A → decode c = .ok .toggle)) ∧
  ∀ s : State,
    SetAnswer .clear s (fun v => ∀ j, j < s.params.W →
      v.getLsbD j = if s.req.b.getLsbD j then false else s.req.a.getLsbD j) ∧
    SetAnswer .set s (fun v => ∀ j, j < s.params.W →
      v.getLsbD j = if s.req.b.getLsbD j then true else s.req.a.getLsbD j) ∧
    SetAnswer .toggle s (fun v => ∀ j, j < s.params.W →
      v.getLsbD j = if s.req.b.getLsbD j then !s.req.a.getLsbD j else s.req.a.getLsbD j)

/-- EXTRACT right-aligns a valid range and fails with INVALID_RANGE exactly where the exact sum exceeds `W` (R140, R141). -/
def Obligations.ExtractRightAlignsOrRejects : Prop :=
  (∀ c : CmdWord, c.toNat % 2 ^ 8 = 0x0B →
    decode c = .ok (.extract (c.toNat / 2 ^ 8 % 2 ^ 16) (c.toNat / 2 ^ 24))) ∧
  ∀ (s : State) (st len : Nat),
    (st + len ≤ s.params.W →
      SetAnswer (.extract st len) s (fun v =>
        v.toNat = s.req.a.toNat / 2 ^ st % 2 ^ len ∧
        ∀ j, j < s.params.W → v.getLsbD j = (decide (j < len) && s.req.a.getLsbD (st + j)))) ∧
    (s.params.W < st + len → ErrAnswer (.extract st len) s 2)

/-- CLZ counts the 0 bits from bit `W - 1` downward, CTZ those from bit 0 upward; each is `W` on 0 (R142, R143). -/
def Obligations.ZeroCountersAreLeastCounts : Prop :=
  (∀ c : CmdWord,
    (c.toNat % 2 ^ 8 = 0x0C → decode c = .ok .clz) ∧ (c.toNat % 2 ^ 8 = 0x0D → decode c = .ok .ctz)) ∧
  ∀ s : State, s.params.Legal →
    CntAnswer .clz s (fun n => n ≤ s.params.W ∧
      (n = s.params.W ∨ s.req.a.getLsbD (s.params.W - 1 - n) = true) ∧
      ∀ k, k < n → s.req.a.getLsbD (s.params.W - 1 - k) = false) ∧
    CntAnswer .ctz s (fun n => n ≤ s.params.W ∧
      (n = s.params.W ∨ s.req.a.getLsbD n = true) ∧ ∀ k, k < n → s.req.a.getLsbD k = false)

/-! ## Set layer -/

/-- UNION, INTER, DIFF, SYMDIFF and COMPL element by element (R160 to R164). -/
def Obligations.BasicSetAlgebraElementwise : Prop :=
  (∀ c : CmdWord,
    (c.toNat % 2 ^ 8 = 0x20 → decode c = .ok .union) ∧ (c.toNat % 2 ^ 8 = 0x21 → decode c = .ok .inter) ∧
    (c.toNat % 2 ^ 8 = 0x22 → decode c = .ok .diff) ∧ (c.toNat % 2 ^ 8 = 0x23 → decode c = .ok .symdiff) ∧
    (c.toNat % 2 ^ 8 = 0x24 → decode c = .ok .compl)) ∧
  ∀ s : State,
    SetAnswer .union s (fun v => ∀ j, j < s.params.W →
      (v.getLsbD j = true ↔ s.req.a.getLsbD j = true ∨ s.req.b.getLsbD j = true)) ∧
    SetAnswer .inter s (fun v => ∀ j, j < s.params.W →
      (v.getLsbD j = true ↔ s.req.a.getLsbD j = true ∧ s.req.b.getLsbD j = true)) ∧
    SetAnswer .diff s (fun v => ∀ j, j < s.params.W →
      (v.getLsbD j = true ↔ s.req.a.getLsbD j = true ∧ ¬ s.req.b.getLsbD j = true)) ∧
    SetAnswer .symdiff s (fun v => ∀ j, j < s.params.W →
      (v.getLsbD j = true ↔ ¬ (s.req.a.getLsbD j = true ↔ s.req.b.getLsbD j = true))) ∧
    SetAnswer .compl s (fun v => ∀ j, j < s.params.W → (v.getLsbD j = true ↔ ¬ s.req.a.getLsbD j = true))

/-- ISSUB, ISSUPER and ISEMPTY decide inclusion and emptiness element by element (R170, R171, R173). -/
def Obligations.PredicatesDecideInclusion : Prop :=
  (∀ c : CmdWord,
    (c.toNat % 2 ^ 8 = 0x25 → decode c = .ok .issub) ∧ (c.toNat % 2 ^ 8 = 0x26 → decode c = .ok .issuper) ∧
    (c.toNat % 2 ^ 8 = 0x28 → decode c = .ok .isempty)) ∧
  ∀ s : State,
    FlagAnswer .issub s (∀ j, j < s.params.W → s.req.a.getLsbD j = true → s.req.b.getLsbD j = true) ∧
    FlagAnswer .issuper s (∀ j, j < s.params.W → s.req.b.getLsbD j = true → s.req.a.getLsbD j = true) ∧
    FlagAnswer .isempty s (∀ j, j < s.params.W → s.req.a.getLsbD j = false)

/-- CARD is the number of elements (R172). -/
def Obligations.CardinalityCountsElements : Prop :=
  (∀ c : CmdWord, c.toNat % 2 ^ 8 = 0x27 → decode c = .ok .card) ∧
  ∀ s : State, s.params.Legal →
    CntAnswer .card s (fun n => n = ((Finset.range s.params.W).filter (fun j => s.req.a.getLsbD j = true)).card)

/-- MIN is the least and MAX the greatest element of a non-empty set (R174, R175). -/
def Obligations.MinMaxAreExtremeElements : Prop :=
  (∀ c : CmdWord,
    (c.toNat % 2 ^ 8 = 0x29 → decode c = .ok .min) ∧ (c.toNat % 2 ^ 8 = 0x2A → decode c = .ok .max)) ∧
  ∀ s : State, s.params.Legal →
    (s.req.a ≠ 0 →
      CntAnswer .min s (fun m => m < s.params.W ∧ s.req.a.getLsbD m = true ∧
        ∀ k, k < m → s.req.a.getLsbD k = false) ∧
      CntAnswer .max s (fun m => m < s.params.W ∧ s.req.a.getLsbD m = true ∧
        ∀ k, m < k → s.req.a.getLsbD k = false)) ∧
    (s.req.a = 0 → ErrAnswer .min s 1 ∧ ErrAnswer .max s 1)

/-- SHLUNION raises every element of `A` by the amount, drops those that leave the universe, and adds `B` (R190). -/
def Obligations.ShiftLeftUnionBitByBit : Prop :=
  (∀ c : CmdWord, c.toNat % 2 ^ 8 = 0x2B → decode c = .ok (.shlunion (c.toNat / 2 ^ 8 % 2 ^ 16))) ∧
  ∀ (s : State) (n : Nat),
    SetAnswer (.shlunion n) s (fun v => ∀ j, j < s.params.W →
      v.getLsbD j = ((decide (n ≤ j) && s.req.a.getLsbD (j - n)) || s.req.b.getLsbD j))

/-- SHRINTER lowers `A` by the amount within `SHR_WIN` and intersects with `B` (R191). -/
def Obligations.ShiftRightIntersectionBitByBit : Prop :=
  (∀ c : CmdWord, c.toNat % 2 ^ 8 = 0x2C → decode c = .ok (.shrinter (c.toNat / 2 ^ 8 % 2 ^ 16))) ∧
  ∀ (s : State) (n : Nat),
    SetAnswer (.shrinter n) s (fun v => ∀ j, j < s.params.W →
      v.getLsbD j = ((decide (j + n < s.params.shrWin) && s.req.a.getLsbD (j + n)) && s.req.b.getLsbD j))

/-- ROTLDIFF removes `B` from `A` rotated left within `ROTL_WIN` (R192). -/
def Obligations.RotateLeftDifferenceBitByBit : Prop :=
  (∀ c : CmdWord, c.toNat % 2 ^ 8 = 0x2D → decode c = .ok (.rotldiff (c.toNat / 2 ^ 8 % 2 ^ 16))) ∧
  ∀ (s : State) (n : Nat), s.params.Legal →
    SetAnswer (.rotldiff n) s (fun v => ∃ r : SetWord s.params.W, IsRotl s.params.rotlWin n s.req.a r ∧
      ∀ j, j < s.params.W → v.getLsbD j = (r.getLsbD j && !s.req.b.getLsbD j))

/-- ROTRSYMDIFF is the symmetric difference of `A` rotated right within `ROTR_WIN` and `B` (R193). -/
def Obligations.RotateRightSymmetricDifferenceBitByBit : Prop :=
  (∀ c : CmdWord, c.toNat % 2 ^ 8 = 0x2E → decode c = .ok (.rotrsymdiff (c.toNat / 2 ^ 8 % 2 ^ 16))) ∧
  ∀ (s : State) (n : Nat), s.params.Legal →
    SetAnswer (.rotrsymdiff n) s (fun v => ∃ r : SetWord s.params.W, IsRotr s.params.rotrWin n s.req.a r ∧
      ∀ j, j < s.params.W → v.getLsbD j = (r.getLsbD j ^^ s.req.b.getLsbD j))

/-- CLRELEM removes, SETELEM adds and TGLELEM flips the membership of the elements the mask selects (R194 to R196). -/
def Obligations.ElementMutationElementwise : Prop :=
  (∀ c : CmdWord,
    (c.toNat % 2 ^ 8 = 0x2F → decode c = .ok .clrelem) ∧ (c.toNat % 2 ^ 8 = 0x30 → decode c = .ok .setelem) ∧
    (c.toNat % 2 ^ 8 = 0x31 → decode c = .ok .tglelem)) ∧
  ∀ s : State,
    SetAnswer .clrelem s (fun v => ∀ j, j < s.params.W →
      (v.getLsbD j = true ↔ s.req.a.getLsbD j = true ∧ ¬ s.req.b.getLsbD j = true)) ∧
    SetAnswer .setelem s (fun v => ∀ j, j < s.params.W →
      (v.getLsbD j = true ↔ s.req.a.getLsbD j = true ∨ s.req.b.getLsbD j = true)) ∧
    SetAnswer .tglelem s (fun v => ∀ j, j < s.params.W →
      (v.getLsbD j = true ↔ ¬ (s.req.a.getLsbD j = true ↔ s.req.b.getLsbD j = true)))

/-- EXTSUB re-bases a valid range of the universe at element 0 and passes the primitive's error on (R197). -/
def Obligations.ExtractSubsetRebasesOrRejects : Prop :=
  (∀ c : CmdWord, c.toNat % 2 ^ 8 = 0x32 →
    decode c = .ok (.extsub (c.toNat / 2 ^ 8 % 2 ^ 16) (c.toNat / 2 ^ 24))) ∧
  ∀ (s : State) (st len : Nat),
    (st + len ≤ s.params.W →
      SetAnswer (.extsub st len) s (fun v => ∀ j, j < s.params.W →
        (v.getLsbD j = true ↔ ∃ i, s.req.a.getLsbD i = true ∧ st ≤ i ∧ i < st + len ∧ j = i - st))) ∧
    (s.params.W < st + len → ErrAnswer (.extsub st len) s 2)

/-- SCLZ counts the elements of the universe above the maximum, SCTZ those below the minimum; `W` on the empty set, with
no error (R198, R199). -/
def Obligations.SetZeroCountersAgreeWithExtremes : Prop :=
  (∀ c : CmdWord,
    (c.toNat % 2 ^ 8 = 0x33 → decode c = .ok .sclz) ∧ (c.toNat % 2 ^ 8 = 0x34 → decode c = .ok .sctz)) ∧
  ∀ s : State, s.params.Legal →
    CntAnswer .sclz s (fun n => (s.req.a = 0 → n = s.params.W) ∧ ∀ m, s.req.a.getLsbD m = true →
      (∀ k, m < k → s.req.a.getLsbD k = false) → n = s.params.W - 1 - m) ∧
    CntAnswer .sctz s (fun n => (s.req.a = 0 → n = s.params.W) ∧ ∀ m, s.req.a.getLsbD m = true →
      (∀ k, k < m → s.req.a.getLsbD k = false) → n = m)

/-! ## Result ports and errors -/

/-- In every transaction a result port that the opcode's kind does not name carries 0; if the transaction fails all three
do; if the word is no command all three do (R26, R27). -/
def Obligations.UnnamedResultPortsCarryZero : Prop :=
  ∀ s : State, s.params.Legal → s.req.valid = true →
    ∃ (r : Response s.params.W) (tr : Option (TracePort s.params.W)),
      step s = .next { s with rsp := r, trc := tr } ∧
      (s.req.cmd.toNat % 2 ^ 6 ∉ [0x0C, 0x0D, 0x27, 0x29, 0x2A, 0x33, 0x34] → r.rcnt = 0) ∧
      (s.req.cmd.toNat % 2 ^ 6 ∉ [0x25, 0x26, 0x28] → r.rflag = false) ∧
      (s.req.cmd.toNat % 2 ^ 6 ∈ [0x0C, 0x0D, 0x27, 0x29, 0x2A, 0x33, 0x34, 0x25, 0x26, 0x28] → r.rset = 0) ∧
      (r.err ≠ 0 → r.rset = 0 ∧ r.rcnt = 0 ∧ r.rflag = false)

/-- EMPTY_SET is raised by MIN and MAX exactly on the empty set, INVALID_RANGE by EXTRACT and EXTSUB exactly on a range that
leaves the universe (the sum exact), and every other command succeeds on every operand (R241, R242, R245). -/
def Obligations.DataErrorsExactlyWhereNamed : Prop :=
  ∀ s : State, s.params.Legal → s.req.valid = true →
    ∃ (r : Response s.params.W) (tr : Option (TracePort s.params.W)),
      step s = .next { s with rsp := r, trc := tr } ∧
      (r.err = 1 ↔ (s.req.cmd.toNat % 2 ^ 8 = 0x29 ∨ s.req.cmd.toNat % 2 ^ 8 = 0x2A) ∧ s.req.a = 0) ∧
      (r.err = 2 ↔ (s.req.cmd.toNat % 2 ^ 8 = 0x0B ∨ s.req.cmd.toNat % 2 ^ 8 = 0x32) ∧
        s.params.W < s.req.cmd.toNat / 2 ^ 8 % 2 ^ 16 + s.req.cmd.toNat / 2 ^ 24) ∧
      ∀ i, decode s.req.cmd = .ok i → s.req.cmd.toNat % 2 ^ 8 ∉ [0x0B, 0x29, 0x2A, 0x32] → r.err = 0

/-- A failed transaction has no effect: 0 on every result port, no trace record, and no input or parameter driven
(R246, R248). -/
def Obligations.FailedTransactionHasNoEffect : Prop :=
  ∀ s t : State, step s = .next t → t.rsp.err ≠ 0 →
    t = { s with
      rsp := { valid := true, rset := 0, rcnt := 0, rflag := false, err := t.rsp.err }
      trc := if s.params.traceEn then
          some { valid := false, cmd := 0, a := 0, b := 0, rset := 0, rcnt := 0, rflag := false }
        else none }

/-- ILLEGAL_OP is raised, before any operand is looked at, by a word with `rsv ≠ 00` or a reserved opcode: `err = 3`, 0 on
every result port, no trace record, nothing else changed (R67, R68, R243, R246). -/
def Obligations.IllegalWordRaisesIllegalOp : Prop :=
  ∀ s : State, s.params.Legal → s.req.valid = true →
    (s.req.cmd.toNat / 2 ^ 6 % 4 ≠ 0 ∨
      (0x0E ≤ s.req.cmd.toNat % 2 ^ 6 ∧ s.req.cmd.toNat % 2 ^ 6 ≤ 0x1F) ∨
      (0x35 ≤ s.req.cmd.toNat % 2 ^ 6 ∧ s.req.cmd.toNat % 2 ^ 6 ≤ 0x3F)) →
    step s = .next { s with
      rsp := { valid := true, rset := 0, rcnt := 0, rflag := false, err := 3 }
      trc := if s.params.traceEn then
          some { valid := false, cmd := 0, a := 0, b := 0, rset := 0, rcnt := 0, rflag := false }
        else none }

/-- ILLEGAL_OP is raised by no other word, whatever the operands (R243). -/
def Obligations.IllegalOpOnlyFromIllegalWord : Prop :=
  ∀ s t : State, step s = .next t →
    (t.rsp.err = 3 ↔ s.req.valid = true ∧
      (s.req.cmd.toNat / 2 ^ 6 % 4 ≠ 0 ∨
        (0x0E ≤ s.req.cmd.toNat % 2 ^ 6 ∧ s.req.cmd.toNat % 2 ^ 6 ≤ 0x1F) ∨
        (0x35 ≤ s.req.cmd.toNat % 2 ^ 6 ∧ s.req.cmd.toNat % 2 ^ 6 ≤ 0x3F)))

/-! ## The trace port -/

/-- An instance has trace ports exactly with `TRACE_EN = 1`, and no response depends on `TRACE_EN` (R9). -/
def Obligations.TraceEnableIsNotFunctional : Prop :=
  Params.default.traceEn = false ∧
  ∀ (s : State) (e : Bool), s.params.Legal →
    ∃ (r : Response s.params.W) (t₁ t₂ : Option (TracePort s.params.W)),
      step s = .next { s with rsp := r, trc := t₁ } ∧
      step { params := { s.params with traceEn := e }, req := s.req, rsp := s.rsp, trc := s.trc } =
        .next { params := { s.params with traceEn := e }, req := s.req, rsp := r, trc := t₂ } ∧
      t₁.isSome = s.params.traceEn ∧ t₂.isSome = e

/-- The trace ports: none with `TRACE_EN = 0`; with `TRACE_EN = 1` there is a record exactly if there is a request and it
succeeds; a record shows the command as issued with the ignored fields 0 and the operands that are read, and without a
record those ports are 0; the result part is that of the response ports (R256). What is read is fixed by the opcodes of
R62: `b` by those of formats B and BP, `n1` by P, BP and X, `n2` by X. -/
def Obligations.TraceRecordOfTransaction : Prop :=
  ∀ s : State, s.params.Legal →
    ∃ (r : Response s.params.W) (tr : Option (TracePort s.params.W)),
      step s = .next { s with rsp := r, trc := tr } ∧
      (s.params.traceEn = false → tr = none) ∧
      (s.params.traceEn = true → ∃ p, tr = some p ∧
        (p.valid = true ↔ s.req.valid = true ∧ r.err = 0) ∧
        (p.valid = true →
          p.cmd.toNat = s.req.cmd.toNat % 2 ^ 8 +
            (if s.req.cmd.toNat % 2 ^ 6 ∈ opcodesReadingN1 then s.req.cmd.toNat / 2 ^ 8 % 2 ^ 16 * 2 ^ 8 else 0) +
            (if s.req.cmd.toNat % 2 ^ 6 ∈ opcodesReadingN2 then s.req.cmd.toNat / 2 ^ 24 * 2 ^ 24 else 0) ∧
          p.a = s.req.a ∧ p.b = if s.req.cmd.toNat % 2 ^ 6 ∈ opcodesReadingB then s.req.b else 0) ∧
        (p.valid = false → p.cmd = 0 ∧ p.a = 0 ∧ p.b = 0) ∧
        p.rset = r.rset ∧ p.rcnt = r.rcnt ∧ p.rflag = r.rflag)

/-! ## Relations a caller can rely on -/

/-- The rotates of one window undo each other, turn into each other, and add up: R117, which is the spec's own derivation
from R114 and R116. -/
def Obligations.RotatesOfOneWindowCompose : Prop :=
  ∀ (s : State) (x z : SetWord s.params.W) (m n : Nat),
    s.params.Legal → s.params.rotlWin = s.params.rotrWin → x.toNat < 2 ^ s.params.rotlWin → m + n ≤ 65535 →
    (∃ y, GivesSet s (.rotr n) x z y ∧
      GivesSet s (.rotl ((s.params.rotlWin - n % s.params.rotlWin) % s.params.rotlWin)) x z y) ∧
    (∃ y, GivesSet s (.rotl n) x z y ∧ GivesSet s (.rotr n) y z x) ∧
    ∃ y v, GivesSet s (.rotl m) x z y ∧ GivesSet s (.rotl n) y z v ∧ GivesSet s (.rotl (m + n)) x z v

/-- In the consistent configuration a rotate keeps the number of elements (R114, R116, corner cases). -/
def Obligations.ConsistentRotateKeepsCardinality : Prop :=
  ∀ (s : State) (x z : SetWord s.params.W) (n : Nat),
    s.params.Legal → s.params.rotlWin = s.params.W → s.params.rotrWin = s.params.W → n ≤ 65535 →
    ∃ y v k, GivesSet s (.rotl n) x z y ∧ GivesSet s (.rotr n) x z v ∧
      GivesCnt s .card x z k ∧ GivesCnt s .card y z k ∧ GivesCnt s .card v z k

/-- How the counters, MIN, MAX and CARD hang together, on a non-empty and on the empty set: R144, which is the spec's own
derivation from R142 and R143. -/
def Obligations.CountersAndExtremesAgree : Prop :=
  ∀ (s : State) (x z : SetWord s.params.W), s.params.Legal →
    (x ≠ 0 → ∃ cl ct lo hi k, GivesCnt s .clz x z cl ∧ GivesCnt s .ctz x z ct ∧ GivesCnt s .min x z lo ∧
      GivesCnt s .max x z hi ∧ GivesCnt s .card x z k ∧
      cl + hi = s.params.W - 1 ∧ ct = lo ∧ lo ≤ hi ∧ cl + ct ≤ s.params.W - 1 ∧
      (cl + ct = s.params.W - 1 ↔ k = 1)) ∧
    (x = 0 → GivesCnt s .clz x z s.params.W ∧ GivesCnt s .ctz x z s.params.W)

/-- A count operand that no field can carry may be replaced as R63 says: a shift by any amount `≥ W`, a rotate by the amount
modulo its window, a start or a length by 65535; the command then answers as the unbounded definition does. That it does
is the spec's own derivation (R63); that `exec` takes unbounded counts is the model's choice (log 8). -/
def Obligations.UnpresentableCountsHaveSubstitutes : Prop :=
  ∀ (s : State) (p : Nat), s.params.Legal → 65535 < p →
    (∀ n, s.params.W ≤ n → exec (.shl p) s = exec (.shl n) s ∧ exec (.shr p) s = exec (.shr n) s ∧
      exec (.shlunion p) s = exec (.shlunion n) s ∧ exec (.shrinter p) s = exec (.shrinter n) s) ∧
    exec (.rotl p) s = exec (.rotl (p % s.params.rotlWin)) s ∧
    exec (.rotr p) s = exec (.rotr (p % s.params.rotrWin)) s ∧
    exec (.rotldiff p) s = exec (.rotldiff (p % s.params.rotlWin)) s ∧
    exec (.rotrsymdiff p) s = exec (.rotrsymdiff (p % s.params.rotrWin)) s ∧
    ∀ q, exec (.extract p q) s = exec (.extract 65535 q) s ∧ exec (.extract q p) s = exec (.extract q 65535) s ∧
      exec (.extsub p q) s = exec (.extsub 65535 q) s ∧ exec (.extsub q p) s = exec (.extsub q 65535) s

/-- What a caller presents for a count (R63, log 9) always fits its field, and every command with a count operand answers as
with the count itself. -/
def Obligations.PresentedCountsFitAndAgree : Prop :=
  ∀ (s : State) (p q : Nat), s.params.Legal →
    presentedAmount p ≤ 65535 ∧ presentedRotate s.params.rotlWin p ≤ 65535 ∧
    presentedRotate s.params.rotrWin p ≤ 65535 ∧
    exec (.shl p) s = exec (.shl (presentedAmount p)) s ∧ exec (.shr p) s = exec (.shr (presentedAmount p)) s ∧
    exec (.shlunion p) s = exec (.shlunion (presentedAmount p)) s ∧
    exec (.shrinter p) s = exec (.shrinter (presentedAmount p)) s ∧
    exec (.rotl p) s = exec (.rotl (presentedRotate s.params.rotlWin p)) s ∧
    exec (.rotldiff p) s = exec (.rotldiff (presentedRotate s.params.rotlWin p)) s ∧
    exec (.rotr p) s = exec (.rotr (presentedRotate s.params.rotrWin p)) s ∧
    exec (.rotrsymdiff p) s = exec (.rotrsymdiff (presentedRotate s.params.rotrWin p)) s ∧
    exec (.extract p q) s = exec (.extract (presentedAmount p) (presentedAmount q)) s ∧
    exec (.extsub p q) s = exec (.extsub (presentedAmount p) (presentedAmount q)) s

/-- A caller can find out `W` and tell the configurations apart by single transactions: R274, the spec's own
derivation from R112, R114, R116, R142 and R143. -/
def Obligations.CallerDiscoversConfiguration : Prop :=
  ∀ (s : State) (z : SetWord s.params.W), s.params.Legal →
    GivesCnt s .clz 0 z s.params.W ∧ GivesCnt s .ctz 0 z s.params.W ∧
    (s.params.W = 256 → s.params.rotlWin = 256 → GivesSet s (.rotl 8) 1 z (BitVec.ofNat _ 256)) ∧
    (s.params.rotlWin = 8 → GivesSet s (.rotl 8) 1 z 1) ∧
    (s.params.rotrWin = s.params.W → GivesSet s (.rotr 1) 1 z (BitVec.ofNat _ (2 ^ (s.params.W - 1)))) ∧
    (s.params.rotrWin = 4 → GivesSet s (.rotr 1) 1 z (BitVec.ofNat _ 8)) ∧
    (s.params.shrWin = s.params.W → GivesSet s (.shr 0) (BitVec.ofNat _ 0x10) z (BitVec.ofNat _ 0x10)) ∧
    (s.params.shrWin = 4 → GivesSet s (.shr 0) (BitVec.ofNat _ 0x10) z 0)

/-- The pseudo-instructions FULLSET, SINGLE and MEMBER: what they expand to, and what that gives (R72). -/
def Obligations.PseudoInstructionsExpand : Prop :=
  ∀ (s : State) (x : SetWord s.params.W) (i : Nat), s.params.Legal → i ≤ 65535 →
    pseudoFullset s.params.W = { instr := .compl, a := 0, b := 0 } ∧
    GivesSet s (pseudoFullset s.params.W).instr (pseudoFullset s.params.W).a (pseudoFullset s.params.W).b
      (BitVec.ofNat _ (2 ^ s.params.W - 1)) ∧
    pseudoSingle s.params.W i = { instr := .shl i, a := 1, b := 0 } ∧
    GivesSet s (pseudoSingle s.params.W i).instr (pseudoSingle s.params.W i).a (pseudoSingle s.params.W i).b
      (if i < s.params.W then BitVec.ofNat _ (2 ^ i) else 0) ∧
    pseudoMember x i = { instr := .extsub i 1, a := x, b := 0 } ∧
    (i < s.params.W → GivesSet s (pseudoMember x i).instr (pseudoMember x i).a (pseudoMember x i).b
      (if x.getLsbD i then 1 else 0)) ∧
    (s.params.W ≤ i → GivesErr s (pseudoMember x i).instr (pseudoMember x i).a (pseudoMember x i).b 2)

/-- The byte convention of a caller: byte `k` of a stored value stands `k` addresses above the first and is bits
`[8k+7 : 8k]`; the bytes, lowest address first, stand for the value (R42). -/
def Obligations.StoredBytesAreTheLanes : Prop :=
  ∀ (n address : Nat) (v : BitVec n),
    numberOfBytes ((storedCells address v).map Prod.snd) = v.toNat ∧
    ∀ k, k < (n + 7) / 8 → ∃ b : BitVec 8, (storedCells address v)[k]? = some (address + k, b) ∧
      ∀ j, j < 8 → b.getLsbD j = v.getLsbD (8 * k + j)

/-- The result of a script line: the port of the command's kind if the transaction succeeds, none if it fails; so a line of
kind SET, CNT or BOOL gets what its transaction gives on `rset`, `rcnt` or `rflag` (R26, R27, R71; the script line of
the model: log 9). -/
def Obligations.ScriptLineResultIsThePortOfItsKind : Prop :=
  ∀ (s : State) (l : ScriptLine s.params.W), s.params.Legal → l.instr.wellFormed = true →
    ∃ (r : Response s.params.W) (tr : Option (TracePort s.params.W)),
      step { s with req := lineRequest l } = .next { s with req := lineRequest l, rsp := r, trc := tr } ∧
      (r.err ≠ 0 → lineResult l.instr r = none) ∧
      (r.err = 0 →
        (l.instr.opcode ∈ [0x0C#6, 0x0D#6, 0x27#6, 0x29#6, 0x2A#6, 0x33#6, 0x34#6] →
          lineResult l.instr r = some (.cnt r.rcnt) ∧ r.rset = 0 ∧ r.rflag = false) ∧
        (l.instr.opcode ∈ [0x25#6, 0x26#6, 0x28#6] →
          lineResult l.instr r = some (.flag r.rflag) ∧ r.rset = 0 ∧ r.rcnt = 0) ∧
        (l.instr.opcode ∉ [0x0C#6, 0x0D#6, 0x27#6, 0x29#6, 0x2A#6, 0x33#6, 0x34#6, 0x25#6, 0x26#6, 0x28#6] →
          lineResult l.instr r = some (.set r.rset) ∧ r.rcnt = 0 ∧ r.rflag = false))

/-- Union and intersection are idempotent, commutative, associative and distribute over each other (R210 to R217). -/
def Obligations.UnionIntersectionLaws : Prop :=
  ∀ (s : State) (x y z : SetWord s.params.W), s.params.Legal →
    GivesSet s .union x x x ∧ GivesSet s .inter x x x ∧
    (∃ u, GivesSet s .union x y u ∧ GivesSet s .union y x u) ∧
    (∃ u, GivesSet s .inter x y u ∧ GivesSet s .inter y x u) ∧
    (∃ u v r, GivesSet s .union x y u ∧ GivesSet s .union u z r ∧ GivesSet s .union y z v ∧ GivesSet s .union x v r) ∧
    (∃ u v r, GivesSet s .inter x y u ∧ GivesSet s .inter u z r ∧ GivesSet s .inter y z v ∧ GivesSet s .inter x v r) ∧
    (∃ u p q r, GivesSet s .union y z u ∧ GivesSet s .inter x u r ∧
      GivesSet s .inter x y p ∧ GivesSet s .inter x z q ∧ GivesSet s .union p q r) ∧
    ∃ u p q r, GivesSet s .inter y z u ∧ GivesSet s .union x u r ∧
      GivesSet s .union x y p ∧ GivesSet s .union x z q ∧ GivesSet s .inter p q r

/-- Double complement and De Morgan's two laws (R218 to R220). -/
def Obligations.ComplementLaws : Prop :=
  ∀ (s : State) (x y z : SetWord s.params.W), s.params.Legal →
    (∃ u, GivesSet s .compl x z u ∧ GivesSet s .compl u z x) ∧
    (∃ u p q r, GivesSet s .union x y u ∧ GivesSet s .compl u z r ∧
      GivesSet s .compl x z p ∧ GivesSet s .compl y z q ∧ GivesSet s .inter p q r) ∧
    ∃ u p q r, GivesSet s .inter x y u ∧ GivesSet s .compl u z r ∧
      GivesSet s .compl x z p ∧ GivesSet s .compl y z q ∧ GivesSet s .union p q r

/-- Symmetric difference commutes and is self-inverse; subset and superset are converse (R221 to R223). -/
def Obligations.SymmetricDifferenceAndInclusionLaws : Prop :=
  ∀ (s : State) (x y : SetWord s.params.W), s.params.Legal →
    (∃ u, GivesSet s .symdiff x y u ∧ GivesSet s .symdiff y x u) ∧
    GivesSet s .symdiff x x 0 ∧
    ∃ f, GivesFlag s .issub x y f ∧ GivesFlag s .issuper y x f

/-- The boundary behaviours of the predicates and measures (R224 to R228). -/
def Obligations.BoundaryBehaviours : Prop :=
  ∀ (s : State) (y z : SetWord s.params.W), s.params.Legal →
    GivesCnt s .card 0 z 0 ∧ GivesCnt s .card (BitVec.ofNat _ (2 ^ s.params.W - 1)) z s.params.W ∧
    GivesFlag s .issub 0 y true ∧
    (y ≠ 0 → GivesFlag s .issuper 0 y false) ∧ (y = 0 → GivesFlag s .issuper 0 y true) ∧
    GivesErr s .min 0 z 1 ∧ GivesErr s .max 0 z 1

/-- The cardinalities of a set and of its complement add up to `W` (R172, corner cases). -/
def Obligations.CardinalityOfComplement : Prop :=
  ∀ (s : State) (x z : SetWord s.params.W), s.params.Legal →
    ∃ u k m, GivesSet s .compl x z u ∧ GivesCnt s .card x z k ∧ GivesCnt s .card u z m ∧ k + m = s.params.W

/-- One round of enumerating a set: MIN, SHL of 1 by it, CLRELEM of that singleton removes exactly one element (R110, R172,
R174, R194). -/
def Obligations.RemovingTheLeastElementDecreasesCardinality : Prop :=
  ∀ (s : State) (x z : SetWord s.params.W), s.params.Legal → x ≠ 0 →
    ∃ m bit rest k, GivesCnt s .min x z m ∧ GivesSet s (.shl m) 1 z bit ∧ GivesSet s .clrelem x bit rest ∧
      GivesCnt s .card x z (k + 1) ∧ GivesCnt s .card rest z k ∧ rest.getLsbD m = false
end

