-- ==== Sys2Proof/Laws/Bits.lean ====
section
/-! SUPPORT. What the width functions, the scans and the primitive functions compute, bit by bit and as numbers. -/

namespace Sys2Proof.Machine

variable {w : Nat}

/-- Two W-bit values with the same bits below the width are equal. -/
theorem eq_of_bits {v u : SetWord w} (h : ∀ j, j < w → v.getLsbD j = u.getLsbD j) : v = u :=
  BitVec.eq_of_getLsbD_eq h

/-- A non-zero value has a 1 below its width. -/
theorem exists_bit_of_ne_zero {v : SetWord w} (h : v ≠ 0#w) : ∃ i, i < w ∧ v.getLsbD i = true := by
  by_contra hc
  exact h (eq_of_bits fun j hj => by simpa using fun hb => hc ⟨j, hj, hb⟩)

/-! ## `trunc` -/

@[simp] theorem trunc_toNat (n : Nat) (v : SetWord w) : (trunc n v).toNat = v.toNat % 2 ^ n := by
  have h : v.toNat % 2 ^ n < 2 ^ w := (Nat.mod_le _ _).trans_lt v.isLt
  simp [trunc, Nat.mod_eq_of_lt h]

@[simp] theorem trunc_getLsbD (n : Nat) (v : SetWord w) (j : Nat) :
    (trunc n v).getLsbD j = (decide (j < n) && v.getLsbD j) := by
  simp only [← BitVec.testBit_toNat, trunc_toNat, Nat.testBit_mod_two_pow]

/-! ## The scans -/

/-- The upward scan stops at the least 1 at or above its start, or at its end. -/
theorem lowestFrom_spec (v : SetWord w) (fuel i : Nat) :
    i ≤ lowestFrom v fuel i ∧ lowestFrom v fuel i ≤ i + fuel ∧
      (lowestFrom v fuel i < i + fuel → v.getLsbD (lowestFrom v fuel i) = true) ∧
      ∀ k, i ≤ k → k < lowestFrom v fuel i → v.getLsbD k = false := by
  induction fuel generalizing i with
  | zero => exact ⟨le_rfl, le_rfl, fun h => absurd h (lt_irrefl _), fun k h₁ h₂ => absurd h₂ (not_lt.2 h₁)⟩
  | succ n ih =>
    unfold lowestFrom
    split
    next h => exact ⟨le_rfl, by omega, fun _ => h, fun k h₁ h₂ => absurd h₂ (not_lt.2 h₁)⟩
    next h =>
      obtain ⟨h₁, h₂, h₃, h₄⟩ := ih (i + 1)
      refine ⟨by omega, by omega, fun hl => h₃ (by omega), fun k hk hl => ?_⟩
      rcases Nat.eq_or_lt_of_le hk with rfl | hk
      · simpa using h
      · exact h₄ k hk hl

/-- `lsb` of a non-zero value: its least 1. -/
theorem lsb_spec {v : SetWord w} (h : v ≠ 0#w) :
    lsb v < w ∧ v.getLsbD (lsb v) = true ∧ ∀ k, k < lsb v → v.getLsbD k = false := by
  obtain ⟨i, hi, hb⟩ := exists_bit_of_ne_zero h
  obtain ⟨-, -, h₃, h₄⟩ := lowestFrom_spec v w 0
  have hlt : lsb v < w := by
    by_contra hc
    have := h₄ i (Nat.zero_le _) (by unfold lsb at hc; omega)
    simp [hb] at this
  exact ⟨hlt, h₃ (by unfold lsb at hlt; omega), fun k hk => h₄ k (Nat.zero_le _) hk⟩

/-- The downward scan finds the greatest 1 below its start, if there is one. -/
theorem highestBelow_spec (v : SetWord w) (n : Nat) (h : ∃ i, i < n ∧ v.getLsbD i = true) :
    highestBelow v n < n ∧ v.getLsbD (highestBelow v n) = true ∧
      ∀ k, highestBelow v n < k → k < n → v.getLsbD k = false := by
  induction n with
  | zero => obtain ⟨i, hi, -⟩ := h; omega
  | succ n ih =>
    unfold highestBelow
    split
    next hb => exact ⟨by omega, hb, fun k h₁ h₂ => by omega⟩
    next hb =>
      obtain ⟨i, hi, hv⟩ := h
      have hin : i < n := by
        rcases Nat.eq_or_lt_of_le (Nat.le_of_lt_succ hi) with rfl | h
        · exact absurd hv hb
        · exact h
      obtain ⟨h₁, h₂, h₃⟩ := ih ⟨i, hin, hv⟩
      refine ⟨by omega, h₂, fun k hk hkn => ?_⟩
      rcases Nat.eq_or_lt_of_le (Nat.le_of_lt_succ hkn) with rfl | hkn
      · simpa using hb
      · exact h₃ k hk hkn

/-- `msb` of a non-zero value: its greatest 1. -/
theorem msb_spec {v : SetWord w} (h : v ≠ 0#w) :
    msb v < w ∧ v.getLsbD (msb v) = true ∧ ∀ k, msb v < k → v.getLsbD k = false := by
  obtain ⟨h₁, h₂, h₃⟩ := highestBelow_spec v w (exists_bit_of_ne_zero h)
  refine ⟨h₁, h₂, fun k hk => ?_⟩
  by_cases hkw : k < w
  · exact h₃ k hk hkw
  · exact BitVec.getLsbD_of_ge v k (by omega)

/-- The count of ones below `n` is the number of such positions. -/
theorem onesBelow_eq_card (v : SetWord w) (n : Nat) :
    onesBelow v n = ((Finset.range n).filter (fun j => v.getLsbD j = true)).card := by
  induction n with
  | zero => rfl
  | succ n ih =>
    rw [onesBelow, ih, Finset.range_add_one, Finset.filter_insert]
    cases hb : v.getLsbD n <;> simp

theorem popcount_le (v : SetWord w) : popcount v ≤ w := by
  rw [popcount, onesBelow_eq_card]
  exact (Finset.card_filter_le _ _).trans (by simp)

/-! ## The primitive functions, bit by bit -/

@[simp] theorem bpeAnd_getLsbD (a b : SetWord w) (j : Nat) : (bpeAnd a b).getLsbD j = (a.getLsbD j && b.getLsbD j) :=
  BitVec.getLsbD_and

@[simp] theorem bpeOr_getLsbD (a b : SetWord w) (j : Nat) : (bpeOr a b).getLsbD j = (a.getLsbD j || b.getLsbD j) :=
  BitVec.getLsbD_or

@[simp] theorem bpeXor_getLsbD (a b : SetWord w) (j : Nat) : (bpeXor a b).getLsbD j = (a.getLsbD j ^^ b.getLsbD j) :=
  BitVec.getLsbD_xor

@[simp] theorem bpeNot_getLsbD (a : SetWord w) (j : Nat) : (bpeNot a).getLsbD j = (decide (j < w) && !a.getLsbD j) :=
  BitVec.getLsbD_not

theorem bpeShiftLeft_getLsbD (a : SetWord w) (n j : Nat) (hj : j < w) :
    (bpeShiftLeft a n).getLsbD j = (decide (n ≤ j) && a.getLsbD (j - n)) := by
  unfold bpeShiftLeft
  split
  next h => simp [show ¬ n ≤ j by omega]
  next h =>
    rw [BitVec.getLsbD_shiftLeft]
    by_cases hn : n ≤ j
    · simp [hj, hn]
    · simp [hn, show j < n by omega]

theorem bpeShiftLeft_toNat (a : SetWord w) (n : Nat) : (bpeShiftLeft a n).toNat = a.toNat * 2 ^ n % 2 ^ w := by
  unfold bpeShiftLeft
  split
  next h =>
    obtain ⟨k, rfl⟩ := Nat.exists_eq_add_of_le h
    rw [pow_add, mul_left_comm]
    simp
  next h => simp [Nat.shiftLeft_eq]

theorem bpeShiftRight_getLsbD (s : Nat) (a : SetWord w) (n j : Nat) :
    (bpeShiftRight s a n).getLsbD j = (decide (j + n < s) && a.getLsbD (j + n)) := by
  unfold bpeShiftRight
  split
  next h => simp [show ¬ j + n < s by omega]
  next h => simp [BitVec.getLsbD_ushiftRight, Nat.add_comm]

theorem bpeShiftRight_toNat (s : Nat) (a : SetWord w) (n : Nat) :
    (bpeShiftRight s a n).toNat = a.toNat % 2 ^ s / 2 ^ n := by
  unfold bpeShiftRight
  split
  next h =>
    have : a.toNat % 2 ^ s < 2 ^ n :=
      (Nat.mod_lt _ (by positivity)).trans_le (Nat.pow_le_pow_right (by norm_num) h)
    simp [Nat.div_eq_of_lt this]
  next h => simp [Nat.shiftRight_eq_div_pow]

/-- The rotate left, bit by bit from the result's side, in a window that fits the value. -/
theorem bpeRotateLeft_getLsbD (r : Nat) (a : SetWord w) (n j : Nat) (h₀ : 0 < r) (hr : r ≤ w) :
    (bpeRotateLeft r a n).getLsbD j = (decide (j < r) && a.getLsbD ((j + (r - n % r)) % r)) := by
  have hk : n % r < r := Nat.mod_lt _ h₀
  unfold bpeRotateLeft
  split
  next h =>
    by_cases hj : j < r <;> simp [h, hj, Nat.mod_eq_of_lt]
  next h =>
    simp only [BitVec.getLsbD_or, trunc_getLsbD, BitVec.getLsbD_shiftLeft, BitVec.getLsbD_ushiftRight]
    by_cases hj : j < r
    · by_cases hkj : n % r ≤ j
      · have e : (j + (r - n % r)) % r = j - n % r := by
          rw [show j + (r - n % r) = (j - n % r) + r by omega, Nat.add_mod_right, Nat.mod_eq_of_lt (by omega)]
        rw [e]
        simp [hj, show j < w by omega, show n % r ≤ j by omega, show j - n % r < r by omega,
          show ¬ r - n % r + j < r by omega]
      · have e : (j + (r - n % r)) % r = r - n % r + j := by rw [Nat.mod_eq_of_lt (by omega), Nat.add_comm]
        rw [e]
        simp [hj, show j < n % r by omega, show r - n % r + j < r by omega]
    · simp [hj, show ¬ r - n % r + j < r by omega]

/-- The rotate right, bit by bit, in a window that fits the value. -/
theorem bpeRotateRight_getLsbD (r : Nat) (a : SetWord w) (n j : Nat) (h₀ : 0 < r) (hr : r ≤ w) :
    (bpeRotateRight r a n).getLsbD j = (decide (j < r) && a.getLsbD ((j + n % r) % r)) := by
  have hk : n % r < r := Nat.mod_lt _ h₀
  unfold bpeRotateRight
  split
  next h =>
    by_cases hj : j < r <;> simp [h, hj, Nat.mod_eq_of_lt]
  next h =>
    simp only [BitVec.getLsbD_or, trunc_getLsbD, BitVec.getLsbD_shiftLeft, BitVec.getLsbD_ushiftRight]
    by_cases hj : j < r
    · by_cases hkj : j + n % r < r
      · have e : (j + n % r) % r = n % r + j := by rw [Nat.mod_eq_of_lt hkj, Nat.add_comm]
        rw [e]
        simp [hj, show n % r + j < r by omega, show j < r - n % r by omega]
      · have e : (j + n % r) % r = j - (r - n % r) := by
          rw [show j + n % r = (j - (r - n % r)) + r by omega, Nat.add_mod_right, Nat.mod_eq_of_lt (by omega)]
        rw [e]
        simp [hj, show ¬ n % r + j < r by omega, show r - n % r ≤ j by omega, show j < w by omega,
          show j - (r - n % r) < r by omega]
    · simp [hj, show ¬ n % r + j < r by omega]

/-- The extraction: the error exactly where the exact sum exceeds the width, else the field as a number. -/
theorem bpeExtract_cases (a : SetWord w) (st len : Nat) :
    (w < st + len ∧ bpeExtract a st len = .error .invalidRange) ∨
    (st + len ≤ w ∧ ∃ v, bpeExtract a st len = .ok v ∧ v.toNat = a.toNat / 2 ^ st % 2 ^ len ∧
      ∀ j, v.getLsbD j = (decide (j < len) && a.getLsbD (st + j))) := by
  unfold bpeExtract
  split
  next h => exact .inl ⟨h, rfl⟩
  next h =>
    refine .inr ⟨by omega, _, rfl, ?_, fun j => ?_⟩
    · simp [Nat.shiftRight_eq_div_pow]
    · simp [BitVec.getLsbD_ushiftRight]

/-- The leading zeros: the width on 0, else the distance of the greatest 1 from the top. -/
theorem bpeCountLeadingZeros_cases (a : SetWord w) :
    (a = 0#w ∧ bpeCountLeadingZeros a = w) ∨ (a ≠ 0#w ∧ bpeCountLeadingZeros a + msb a + 1 = w) := by
  unfold bpeCountLeadingZeros
  split
  next h => exact .inl ⟨h, rfl⟩
  next h => exact .inr ⟨h, by have := (msb_spec h).1; omega⟩

/-- The trailing zeros: the width on 0, else the least 1. -/
theorem bpeCountTrailingZeros_cases (a : SetWord w) :
    (a = 0#w ∧ bpeCountTrailingZeros a = w) ∨ (a ≠ 0#w ∧ bpeCountTrailingZeros a = lsb a) := by
  unfold bpeCountTrailingZeros
  split
  next h => exact .inl ⟨h, rfl⟩
  next h => exact .inr ⟨h, rfl⟩

theorem bpeCountLeadingZeros_le (a : SetWord w) : bpeCountLeadingZeros a ≤ w := by
  rcases bpeCountLeadingZeros_cases a with ⟨-, h⟩ | ⟨-, h⟩ <;> omega

theorem bpeCountTrailingZeros_le (a : SetWord w) : bpeCountTrailingZeros a ≤ w := by
  rcases bpeCountTrailingZeros_cases a with ⟨-, h⟩ | ⟨h₀, h⟩
  · omega
  · have := (lsb_spec h₀).1; omega

/-! ## The predicates -/

theorem saoIsSubset_iff (a b : SetWord w) :
    saoIsSubset a b = true ↔ ∀ j, j < w → a.getLsbD j = true → b.getLsbD j = true := by
  rw [saoIsSubset, beq_iff_eq]
  constructor
  · intro h j _ ha
    have := congrArg (fun v : SetWord w => v.getLsbD j) h
    simpa [ha] using this
  · intro h
    refine eq_of_bits fun j hj => ?_
    cases ha : a.getLsbD j
    · simp [ha]
    · simp [ha, h j hj ha]

theorem saoIsSuperset_iff (a b : SetWord w) :
    saoIsSuperset a b = true ↔ ∀ j, j < w → b.getLsbD j = true → a.getLsbD j = true := by
  rw [← saoIsSubset_iff b a, saoIsSuperset, saoIsSubset, bpeAnd, bpeAnd, BitVec.and_comm]

theorem saoIsEmpty_iff (a : SetWord w) : saoIsEmpty a = true ↔ ∀ j, j < w → a.getLsbD j = false := by
  rw [saoIsEmpty, beq_iff_eq]
  constructor
  · rintro rfl j _; simp
  · exact fun h => eq_of_bits fun j hj => by simpa using h j hj

end Sys2Proof.Machine
end

