-- ==== Sys2Proof/Laws/Decode.lean ====
section
/-! SUPPORT. The fields of a command word as numbers, and decoding by the low byte (spec/30_encoding.md R61, R66). -/

namespace Sys2Proof

/-! ## Fields of a word -/

theorem cmdN2_toNat (c : CmdWord) : (cmdN2 c).toNat = c.toNat / 2 ^ 24 := by
  have := c.isLt
  simp [cmdN2, Nat.shiftRight_eq_div_pow]; omega

theorem cmdN1_toNat (c : CmdWord) : (cmdN1 c).toNat = c.toNat / 2 ^ 8 % 2 ^ 16 := by
  simp [cmdN1, Nat.shiftRight_eq_div_pow]

theorem cmdRsv_toNat (c : CmdWord) : (cmdRsv c).toNat = c.toNat / 2 ^ 6 % 2 ^ 2 := by
  simp [cmdRsv, Nat.shiftRight_eq_div_pow]

theorem cmdOpc_toNat (c : CmdWord) : (cmdOpc c).toNat = c.toNat % 2 ^ 6 := by
  simp [cmdOpc]

theorem cmdOfFields_toNat (n2 n1 : CountWord) (rsv : BitVec 2) (opc : BitVec 6) :
    (cmdOfFields n2 n1 rsv opc).toNat = n2.toNat * 2 ^ 24 + n1.toNat * 2 ^ 8 + rsv.toNat * 2 ^ 6 + opc.toNat := by
  have h₁ := n1.isLt
  have h₂ := rsv.isLt
  have h₃ := opc.isLt
  have e : ∀ (x y k : Nat), y < 2 ^ k → x <<< k ||| y = x * 2 ^ k + y := fun x y k h => by
    rw [← Nat.shiftLeft_add_eq_or_of_lt h, Nat.shiftLeft_eq]
  unfold cmdOfFields
  simp only [BitVec.toNat_append]
  rw [e _ _ _ h₁, e _ _ _ h₂, e _ _ _ h₃]
  ring

/-! ## Decoding -/

/-- Only the low byte selects the operation, and its two high bits must be 0: decoding by numbers (R66, R68, R70). -/
theorem decode_eq (c : CmdWord) :
    decode c =
      if c.toNat / 2 ^ 6 % 2 ^ 2 ≠ 0 then .error .reservedField
      else match instrOfOpcode (c.toNat % 2 ^ 6) (c.toNat / 2 ^ 8 % 2 ^ 16) (c.toNat / 2 ^ 24) with
        | some i => .ok i
        | none => .error .reservedOpcode := by
  have h : cmdRsv c ≠ 0#2 ↔ c.toNat / 2 ^ 6 % 2 ^ 2 ≠ 0 := by
    rw [← cmdRsv_toNat, Ne, Ne, ← BitVec.toNat_inj]; rfl
  unfold decode
  rw [cmdOpc_toNat, cmdN1_toNat, cmdN2_toNat]
  by_cases hc : cmdRsv c ≠ 0#2
  · rw [if_pos hc, if_pos (h.1 hc)]
  · refine (if_neg hc).trans (Eq.trans ?_ (if_neg (mt h.2 hc)).symm)
    generalize instrOfOpcode _ _ _ = x
    cases x <;> rfl

/-- A word whose low byte is an assigned opcode decodes to that operation, with its fields as count operands. -/
theorem decode_of_low_byte (c : CmdWord) (k : Nat) (i : Instr) (hc : c.toNat % 2 ^ 8 = k) (hk : k < 2 ^ 6)
    (hi : instrOfOpcode k (c.toNat / 2 ^ 8 % 2 ^ 16) (c.toNat / 2 ^ 24) = some i) : decode c = .ok i := by
  have h₁ : c.toNat / 2 ^ 6 % 2 ^ 2 = 0 := by omega
  have h₂ : c.toNat % 2 ^ 6 = k := by omega
  rw [decode_eq, if_neg (by omega), h₂, hi]

/-- The opcode, read back from a command, finds the command of its own row (R66). -/
theorem instrOfOpcode_opcode (i : Instr) : instrOfOpcode i.opcode.toNat i.count1 i.count2 = some i := by
  cases i <;> rfl

/-- The same with any values in the counts the command's format does not read (R64). -/
theorem instrOfOpcode_opcode_of_counts (i : Instr) (n1 n2 : Nat) (h₁ : i.format.readsN1 = true → n1 = i.count1)
    (h₂ : i.format.readsN2 = true → n2 = i.count2) : instrOfOpcode i.opcode.toNat n1 n2 = some i := by
  cases i <;> first
    | rfl
    | (cases h₁ rfl; rfl)
    | (cases h₁ rfl; cases h₂ rfl; rfl)

/-- What an opcode number stands for: its own row, with the counts its format reads (R62, R66). -/
theorem instrOfOpcode_some {opc n1 n2 : Nat} {i : Instr} (h : instrOfOpcode opc n1 n2 = some i) :
    i.opcode.toNat = opc ∧ i.count1 = (if i.format.readsN1 then n1 else 0) ∧
      i.count2 = (if i.format.readsN2 then n2 else 0) := by
  unfold instrOfOpcode at h
  split at h <;> first | (cases h; exact ⟨rfl, rfl, rfl⟩) | cases h

/-- The opcode numbers without a row are the reserved ones (R67). -/
theorem instrOfOpcode_eq_none (opc n1 n2 : Nat) :
    instrOfOpcode opc n1 n2 = none ↔ (0x0E ≤ opc ∧ opc ≤ 0x1F) ∨ 0x35 ≤ opc := by
  constructor
  · intro h
    by_contra hc
    have : opc < 0x35 := by omega
    interval_cases opc <;> first | omega | cases h
  · intro h
    unfold instrOfOpcode
    split <;> first | rfl | omega

/-- Every opcode has 6 bits and every count a well-formed command carries has 16 (R61, R63). -/
theorem wellFormed_counts {i : Instr} (h : i.wellFormed = true) : i.count1 ≤ 65535 ∧ i.count2 ≤ 65535 := by
  cases i <;> simp_all [Instr.wellFormed, Instr.count1, Instr.count2, countFits]

end Sys2Proof
end

