-- ==== Sys2Proof/Laws/Formats.lean ====
section
/-! SUPPORT. The opcodes of R62 that read an input are those whose format reads it, per command and per word. -/

namespace Sys2Proof.Machine

/-- Port `b` is read by the formats of exactly the opcodes listed (R62). -/
theorem readsB_eq_listed (i : Instr) : i.format.readsB = decide (i.opcode.toNat ∈ opcodesReadingB) := by
  cases i <;> rfl

/-- Field `n1` is read by the formats of exactly the opcodes listed (R62). -/
theorem readsN1_eq_listed (i : Instr) : i.format.readsN1 = decide (i.opcode.toNat ∈ opcodesReadingN1) := by
  cases i <;> rfl

/-- Field `n2` is read by the formats of exactly the opcodes listed (R62). -/
theorem readsN2_eq_listed (i : Instr) : i.format.readsN2 = decide (i.opcode.toNat ∈ opcodesReadingN2) := by
  cases i <;> rfl

/-- The opcode of a decoded command is the low six bits of its word (R61, R66). -/
theorem opcode_of_decode {c : CmdWord} {i : Instr} (h : decode c = .ok i) : i.opcode.toNat = c.toNat % 2 ^ 6 := by
  rw [decode_eq] at h
  split at h
  · cases h
  · split at h
    next j hj => cases h; exact (instrOfOpcode_some hj).1
    · cases h

/-- What a decoded command reads, by the opcode in its word (R62, R66). -/
theorem reads_of_decode {c : CmdWord} {i : Instr} (h : decode c = .ok i) :
    (i.format.readsB = true ↔ c.toNat % 2 ^ 6 ∈ opcodesReadingB) ∧
    (i.format.readsN1 = true ↔ c.toNat % 2 ^ 6 ∈ opcodesReadingN1) ∧
    (i.format.readsN2 = true ↔ c.toNat % 2 ^ 6 ∈ opcodesReadingN2) := by
  rw [readsB_eq_listed, readsN1_eq_listed, readsN2_eq_listed, opcode_of_decode h]
  simp only [decide_eq_true_iff, and_self]

end Sys2Proof.Machine
end

