-- ==== Sys2Proof/Laws/State.lean ====
section
/-! SUPPORT. One lemma per field per update of the state, and per field of each response: all true by `rfl`. -/

namespace Sys2Proof.Machine

/-! ## Updates of the state -/

@[simp] theorem State.respond_params (s : State) (r : Response s.params.W) : (s.respond r).params = s.params := rfl
@[simp] theorem State.respond_req (s : State) (r : Response s.params.W) : (s.respond r).req = s.req := rfl
@[simp] theorem State.respond_rsp (s : State) (r : Response s.params.W) : (s.respond r).rsp = r := rfl
@[simp] theorem State.respond_trc (s : State) (r : Response s.params.W) : (s.respond r).trc = s.trc := rfl

@[simp] theorem State.driveTrace_params (s : State) (i? : Option Instr) : (s.driveTrace i?).params = s.params := rfl
@[simp] theorem State.driveTrace_req (s : State) (i? : Option Instr) : (s.driveTrace i?).req = s.req := rfl
@[simp] theorem State.driveTrace_rsp (s : State) (i? : Option Instr) : (s.driveTrace i?).rsp = s.rsp := rfl
@[simp] theorem State.driveTrace_trc (s : State) (i? : Option Instr) :
    (s.driveTrace i?).trc = if s.params.traceEn then some (tracePorts i? s.req s.rsp) else none := rfl

@[simp] theorem State.present_params (s : State) (c : CmdWord) (x y : SetWord s.params.W) :
    (s.present c x y).params = s.params := rfl
@[simp] theorem State.present_req (s : State) (c : CmdWord) (x y : SetWord s.params.W) :
    (s.present c x y).req = { valid := true, cmd := c, a := x, b := y } := rfl
@[simp] theorem State.present_rsp (s : State) (c : CmdWord) (x y : SetWord s.params.W) :
    (s.present c x y).rsp = s.rsp := rfl
@[simp] theorem State.present_trc (s : State) (c : CmdWord) (x y : SetWord s.params.W) :
    (s.present c x y).trc = s.trc := rfl

@[simp] theorem State.withdraw_params (s : State) : s.withdraw.params = s.params := rfl
@[simp] theorem State.withdraw_req (s : State) : s.withdraw.req = { s.req with valid := false } := rfl
@[simp] theorem State.withdraw_rsp (s : State) : s.withdraw.rsp = s.rsp := rfl
@[simp] theorem State.withdraw_trc (s : State) : s.withdraw.trc = s.trc := rfl

@[simp] theorem State.presentWord_params (s : State) (c : CmdWord) : (s.presentWord c).params = s.params := rfl
@[simp] theorem State.presentWord_req (s : State) (c : CmdWord) :
    (s.presentWord c).req = { s.req with valid := true, cmd := c } := rfl
@[simp] theorem State.presentWord_rsp (s : State) (c : CmdWord) : (s.presentWord c).rsp = s.rsp := rfl
@[simp] theorem State.presentWord_trc (s : State) (c : CmdWord) : (s.presentWord c).trc = s.trc := rfl

/-! ## Fields of the responses -/

section
variable {w : Nat} (b : Bool)

@[simp] theorem setResponse_valid (v : SetWord w) : (setResponse b v).valid = b := rfl
@[simp] theorem setResponse_rset (v : SetWord w) : (setResponse b v).rset = v := rfl
@[simp] theorem setResponse_rcnt (v : SetWord w) : (setResponse b v).rcnt = 0 := rfl
@[simp] theorem setResponse_rflag (v : SetWord w) : (setResponse b v).rflag = false := rfl
@[simp] theorem setResponse_err (v : SetWord w) : (setResponse b v).err = 0 := rfl

@[simp] theorem cntResponse_valid (n : Nat) : (cntResponse b n : Response w).valid = b := rfl
@[simp] theorem cntResponse_rset (n : Nat) : (cntResponse b n : Response w).rset = 0 := rfl
@[simp] theorem cntResponse_rcnt (n : Nat) : (cntResponse b n : Response w).rcnt = BitVec.ofNat 16 n := rfl
@[simp] theorem cntResponse_rflag (n : Nat) : (cntResponse b n : Response w).rflag = false := rfl
@[simp] theorem cntResponse_err (n : Nat) : (cntResponse b n : Response w).err = 0 := rfl

@[simp] theorem flagResponse_valid (f : Bool) : (flagResponse b f : Response w).valid = b := rfl
@[simp] theorem flagResponse_rset (f : Bool) : (flagResponse b f : Response w).rset = 0 := rfl
@[simp] theorem flagResponse_rcnt (f : Bool) : (flagResponse b f : Response w).rcnt = 0 := rfl
@[simp] theorem flagResponse_rflag (f : Bool) : (flagResponse b f : Response w).rflag = f := rfl
@[simp] theorem flagResponse_err (f : Bool) : (flagResponse b f : Response w).err = 0 := rfl

@[simp] theorem errorResponse_valid (e : Error) : (errorResponse b e : Response w).valid = b := rfl
@[simp] theorem errorResponse_rset (e : Error) : (errorResponse b e : Response w).rset = 0 := rfl
@[simp] theorem errorResponse_rcnt (e : Error) : (errorResponse b e : Response w).rcnt = 0 := rfl
@[simp] theorem errorResponse_rflag (e : Error) : (errorResponse b e : Response w).rflag = false := rfl
@[simp] theorem errorResponse_err (e : Error) : (errorResponse b e : Response w).err = errCode e := rfl

/-- An error code is never the code of success (R240). -/
theorem errCode_ne_zero (e : Error) : errCode e ≠ 0 := by cases e <;> decide

end

end Sys2Proof.Machine
end

