-- ==== Sys2Proof/Laws/Ops.lean ====
section
/-! SUPPORT. For each shared operation, once, everything it can do. -/

namespace Sys2Proof.Machine

/-! ## Answering and raising -/

theorem answerSet_next {s t : State} {v : SetWord s.params.W} :
    answerSet s v = .next t ↔ t = s.respond (setResponse s.req.valid v) := by
  simp only [answerSet, Host.Outcome.next.injEq, eq_comm]

theorem answerCnt_next {s t : State} {n : Nat} :
    answerCnt s n = .next t ↔ t = s.respond (cntResponse s.req.valid n) := by
  simp only [answerCnt, Host.Outcome.next.injEq, eq_comm]

theorem answerFlag_next {s t : State} {f : Bool} :
    answerFlag s f = .next t ↔ t = s.respond (flagResponse s.req.valid f) := by
  simp only [answerFlag, Host.Outcome.next.injEq, eq_comm]

theorem raise_next {s t : State} {e : Error} :
    raise s e = .next t ↔ t = s.respond (errorResponse s.req.valid e) := by
  simp only [raise, Host.Outcome.next.injEq, eq_comm]

theorem answerSetOrRaise_next {s t : State} {x : Except Error (SetWord s.params.W)} :
    answerSetOrRaise s x = .next t ↔
      (∃ v, x = .ok v ∧ t = s.respond (setResponse s.req.valid v)) ∨
      (∃ e, x = .error e ∧ t = s.respond (errorResponse s.req.valid e)) := by
  cases x <;> simp [answerSetOrRaise, answerSet_next, raise_next]

theorem answerCntOrRaise_next {s t : State} {x : Except Error Nat} :
    answerCntOrRaise s x = .next t ↔
      (∃ n, x = .ok n ∧ t = s.respond (cntResponse s.req.valid n)) ∨
      (∃ e, x = .error e ∧ t = s.respond (errorResponse s.req.valid e)) := by
  cases x <;> simp [answerCntOrRaise, answerCnt_next, raise_next]

/-! ## The trace and the evaluation -/

theorem traced_next {i? : Option Instr} {o : StepOutcome} {t : State} :
    traced i? o = .next t ↔ ∃ u, o = .next u ∧ t = u.driveTrace i? := by
  cases o <;> simp [traced, eq_comm]

/-- The traced command is the encoding of what the word decodes to (R61, R64, R71, R256). -/
theorem tracedCmd_eq_encode {w : Nat} (q : Request w) (i : Instr) (h : decode q.cmd = .ok i) :
    tracedCmd i.format q = encode i := by
  rw [decode_eq] at h
  split at h
  · cases h
  next hr =>
    have hrsv : cmdRsv q.cmd = 0#2 := by
      rw [← BitVec.toNat_inj, cmdRsv_toNat]; simpa using hr
    split at h
    next j hj =>
      cases h
      obtain ⟨h₁, h₂, h₃⟩ := instrOfOpcode_some hj
      have hopc : cmdOpc q.cmd = i.opcode := by rw [← BitVec.toNat_inj, cmdOpc_toNat, h₁]
      have hn1 : (if i.format.readsN1 then cmdN1 q.cmd else 0#16) = BitVec.ofNat 16 i.count1 := by
        rw [h₂, ← BitVec.toNat_inj, BitVec.toNat_ofNat]
        split
        · rw [cmdN1_toNat]; omega
        · rfl
      have hn2 : (if i.format.readsN2 then cmdN2 q.cmd else 0#16) = BitVec.ofNat 16 i.count2 := by
        have := q.cmd.isLt
        rw [h₃, ← BitVec.toNat_inj, BitVec.toNat_ofNat]
        split
        · rw [cmdN2_toNat]; omega
        · rfl
      rw [tracedCmd, Format.keep, encode, hn1, hn2, hrsv, hopc]
    · cases h

/-- Everything a step can do (R25, R28, R70, R272). -/
theorem step_cases (s : State) :
    (¬ s.params.Legal ∧ step s = .refused .illegalParameters) ∨
    (s.params.Legal ∧ s.req.valid = false ∧ step s = .next ((s.respond idleResponse).driveTrace none)) ∨
    (s.params.Legal ∧ s.req.valid = true ∧ (∃ e, decode s.req.cmd = .error e) ∧
      step s = .next ((s.respond (errorResponse true .illegalOp)).driveTrace none)) ∨
    (s.params.Legal ∧ s.req.valid = true ∧ ∃ i, decode s.req.cmd = .ok i ∧ step s = traced (some i) (exec i s)) := by
  by_cases hl : s.params.Legal
  · cases hv : s.req.valid
    · exact .inr (.inl ⟨hl, rfl, by simp [step, evaluate, hl, hv, idle, traced]⟩)
    · cases hd : decode s.req.cmd with
      | error e =>
        exact .inr (.inr (.inl ⟨hl, rfl, ⟨e, rfl⟩, by simp [step, evaluate, hl, hv, transact, hd, traced, raise]⟩))
      | ok i =>
        exact .inr (.inr (.inr ⟨hl, rfl, i, rfl, by simp [step, evaluate, hl, hv, transact, hd]⟩))
  · exact .inl ⟨hl, by simp only [step, evaluate, if_neg hl]⟩

end Sys2Proof.Machine
end

