-- ==== Sys2Proof/Laws/PerInstr.lean ====
section
/-! SUPPORT. The family `EncodedFields`: the fields of a command's encoding, one lemma per constructor of `Instr`. -/

namespace Sys2Proof

/-- The fields of an encoding are the command's opcode, `rsv = 00`, and its count operands (R61, R64, R71). -/
def Laws.EncodedFields.Statement (i : Instr) : Prop :=
  i.wellFormed = true →
    cmdOpc (encode i) = i.opcode ∧ cmdRsv (encode i) = 0#2 ∧
      (cmdN1 (encode i)).toNat = i.count1 ∧ (cmdN2 (encode i)).toNat = i.count2

/-- The fields of a word built from fields (R61). -/
theorem fields_of_cmdOfFields (n2 n1 : CountWord) (rsv : BitVec 2) (opc : BitVec 6) :
    cmdOpc (cmdOfFields n2 n1 rsv opc) = opc ∧ cmdRsv (cmdOfFields n2 n1 rsv opc) = rsv ∧
      cmdN1 (cmdOfFields n2 n1 rsv opc) = n1 ∧ cmdN2 (cmdOfFields n2 n1 rsv opc) = n2 := by
  have h₁ := n1.isLt
  have h₂ := rsv.isLt
  have h₃ := opc.isLt
  have h₄ := n2.isLt
  simp only [← BitVec.toNat_inj, cmdOpc_toNat, cmdRsv_toNat, cmdN1_toNat, cmdN2_toNat, cmdOfFields_toNat]
  omega

/-- The whole family at once, from the two facts a constructor contributes: its counts fit. -/
theorem encodedFields (i : Instr) : Laws.EncodedFields.Statement i := by
  intro h
  obtain ⟨h₁, h₂⟩ := wellFormed_counts h
  obtain ⟨e₁, e₂, e₃, e₄⟩ := fields_of_cmdOfFields (BitVec.ofNat 16 i.count2) (BitVec.ofNat 16 i.count1) 0#2 i.opcode
  refine ⟨e₁, e₂, ?_, ?_⟩
  · rw [encode, e₃, BitVec.toNat_ofNat]; omega
  · rw [encode, e₄, BitVec.toNat_ofNat]; omega

theorem Laws.EncodedFields.and : Laws.EncodedFields.Statement .and := encodedFields _
theorem Laws.EncodedFields.or : Laws.EncodedFields.Statement .or := encodedFields _
theorem Laws.EncodedFields.xor : Laws.EncodedFields.Statement .xor := encodedFields _
theorem Laws.EncodedFields.not : Laws.EncodedFields.Statement .not := encodedFields _
theorem Laws.EncodedFields.shl (n : Nat) : Laws.EncodedFields.Statement (.shl n) := encodedFields _
theorem Laws.EncodedFields.shr (n : Nat) : Laws.EncodedFields.Statement (.shr n) := encodedFields _
theorem Laws.EncodedFields.rotl (n : Nat) : Laws.EncodedFields.Statement (.rotl n) := encodedFields _
theorem Laws.EncodedFields.rotr (n : Nat) : Laws.EncodedFields.Statement (.rotr n) := encodedFields _
theorem Laws.EncodedFields.clear : Laws.EncodedFields.Statement .clear := encodedFields _
theorem Laws.EncodedFields.set : Laws.EncodedFields.Statement .set := encodedFields _
theorem Laws.EncodedFields.toggle : Laws.EncodedFields.Statement .toggle := encodedFields _
theorem Laws.EncodedFields.extract (st len : Nat) : Laws.EncodedFields.Statement (.extract st len) := encodedFields _
theorem Laws.EncodedFields.clz : Laws.EncodedFields.Statement .clz := encodedFields _
theorem Laws.EncodedFields.ctz : Laws.EncodedFields.Statement .ctz := encodedFields _
theorem Laws.EncodedFields.union : Laws.EncodedFields.Statement .union := encodedFields _
theorem Laws.EncodedFields.inter : Laws.EncodedFields.Statement .inter := encodedFields _
theorem Laws.EncodedFields.diff : Laws.EncodedFields.Statement .diff := encodedFields _
theorem Laws.EncodedFields.symdiff : Laws.EncodedFields.Statement .symdiff := encodedFields _
theorem Laws.EncodedFields.compl : Laws.EncodedFields.Statement .compl := encodedFields _
theorem Laws.EncodedFields.issub : Laws.EncodedFields.Statement .issub := encodedFields _
theorem Laws.EncodedFields.issuper : Laws.EncodedFields.Statement .issuper := encodedFields _
theorem Laws.EncodedFields.card : Laws.EncodedFields.Statement .card := encodedFields _
theorem Laws.EncodedFields.isempty : Laws.EncodedFields.Statement .isempty := encodedFields _
theorem Laws.EncodedFields.min : Laws.EncodedFields.Statement .min := encodedFields _
theorem Laws.EncodedFields.max : Laws.EncodedFields.Statement .max := encodedFields _
theorem Laws.EncodedFields.shlunion (n : Nat) : Laws.EncodedFields.Statement (.shlunion n) := encodedFields _
theorem Laws.EncodedFields.shrinter (n : Nat) : Laws.EncodedFields.Statement (.shrinter n) := encodedFields _
theorem Laws.EncodedFields.rotldiff (n : Nat) : Laws.EncodedFields.Statement (.rotldiff n) := encodedFields _
theorem Laws.EncodedFields.rotrsymdiff (n : Nat) : Laws.EncodedFields.Statement (.rotrsymdiff n) := encodedFields _
theorem Laws.EncodedFields.clrelem : Laws.EncodedFields.Statement .clrelem := encodedFields _
theorem Laws.EncodedFields.setelem : Laws.EncodedFields.Statement .setelem := encodedFields _
theorem Laws.EncodedFields.tglelem : Laws.EncodedFields.Statement .tglelem := encodedFields _
theorem Laws.EncodedFields.extsub (st len : Nat) : Laws.EncodedFields.Statement (.extsub st len) := encodedFields _
theorem Laws.EncodedFields.sclz : Laws.EncodedFields.Statement .sclz := encodedFields _
theorem Laws.EncodedFields.sctz : Laws.EncodedFields.Statement .sctz := encodedFields _

end Sys2Proof
end

