-- ==== Sys2Proof/Tests/Slice0.lean ====
section
/-! SUPPORT. The model's own tests: well-formedness, decoding of written-out words, single transactions of
spec/95_test_vectors.md, and for every statement with hypotheses a state and operands that meet them. -/

namespace Sys2Proof.Tests

set_option Elab.async false

open Sys2Proof.Machine

/-! ## Helpers -/

/-- An instance that has done nothing yet, with a request on its ports. -/
def present (p : Params) (c : CmdWord) (x y : Nat) : State :=
  { params := p
    req := { valid := true, cmd := c, a := BitVec.ofNat _ x, b := BitVec.ofNat _ y }
    rsp := idleResponse
    trc := none }

/-- What one step answers, as numbers: `rset`, `rcnt`, `rflag`, `err`. -/
def answer (s : State) : Option (Nat × Nat × Bool × Nat) :=
  match step s with
  | .next t => some (t.rsp.rset.toNat, t.rsp.rcnt.toNat, t.rsp.rflag, t.rsp.err.toNat)
  | .fault _ => none
  | .refused _ => none

/-- What one step shows on the trace ports, as numbers: valid, `cmd`, `a`, `b`, `rset`, `rcnt`. -/
def record (s : State) : Option (Bool × Nat × Nat × Nat × Nat × Nat) :=
  match step s with
  | .next t => t.trc.map fun p => (p.valid, p.cmd.toNat, p.a.toNat, p.b.toNat, p.rset.toNat, p.rcnt.toNat)
  | .fault _ => none
  | .refused _ => none

/-- Whether a step is refused. -/
def isRefused (s : State) : Bool :=
  match step s with
  | .next _ => false
  | .fault _ => false
  | .refused _ => true

/-- An instance of width 8 with three different narrow windows, without and with the trace ports. -/
def narrow (t : Bool) : Params := { W := 8, rotlWin := 6, rotrWin := 4, shrWin := 3, traceEn := t }

/-- The parameters with a given width and windows. -/
def sized (w l r h : Nat) : Params := { W := w, rotlWin := l, rotrWin := r, shrWin := h, traceEn := false }

/-- The constant `A` of spec/95_test_vectors.md. -/
def valA : Nat := 0x0123456789ABCDEFFEDCBA98765432100F1E2D3C4B5A69788796A5B4C3D2E1F0

/-- The constant `B` of spec/95_test_vectors.md. -/
def valB : Nat := 0xFFFF0000FFFF000000FF00FF00FF00FFF0F0F0F0F0F0F0F0AAAAAAAA55555555

/-- The constant `FULL` of spec/95_test_vectors.md. -/
def valFull : Nat := 2 ^ 256 - 1

/-! ## Well-formedness: an ill-formed term for each check -/

theorem test_illformed_shl : (Instr.shl 65536).wellFormed = false := by decide
theorem test_illformed_shr : (Instr.shr 65536).wellFormed = false := by decide
theorem test_illformed_rotl : (Instr.rotl 65536).wellFormed = false := by decide
theorem test_illformed_rotr : (Instr.rotr 65536).wellFormed = false := by decide
theorem test_illformed_shlunion : (Instr.shlunion 65536).wellFormed = false := by decide
theorem test_illformed_shrinter : (Instr.shrinter 65536).wellFormed = false := by decide
theorem test_illformed_rotldiff : (Instr.rotldiff 65536).wellFormed = false := by decide
theorem test_illformed_rotrsymdiff : (Instr.rotrsymdiff 65536).wellFormed = false := by decide
theorem test_illformed_extract_start : (Instr.extract 65536 0).wellFormed = false := by decide
theorem test_illformed_extract_length : (Instr.extract 0 65536).wellFormed = false := by decide
theorem test_illformed_extsub_start : (Instr.extsub 65536 0).wellFormed = false := by decide
theorem test_illformed_extsub_length : (Instr.extsub 0 65536).wellFormed = false := by decide
theorem test_wellformed_largest : (Instr.extract 65535 65535).wellFormed = true ∧ (Instr.shl 65535).wellFormed = true := by
  decide
theorem test_illegal_width_zero : isRefused (present (sized 0 0 0 0) 0 0 0) = true := by decide
theorem test_illegal_width_above : isRefused (present (sized 32769 1 1 1) 0 0 0) = true := by decide +kernel
theorem test_illegal_rotl_zero : isRefused (present (sized 8 0 8 8) 0 0 0) = true := by decide
theorem test_illegal_rotl_above : isRefused (present (sized 8 9 8 8) 0 0 0) = true := by decide
theorem test_illegal_rotr_zero : isRefused (present (sized 8 8 0 8) 0 0 0) = true := by decide
theorem test_illegal_rotr_above : isRefused (present (sized 8 8 9 8) 0 0 0) = true := by decide
theorem test_illegal_shr_zero : isRefused (present (sized 8 8 8 0) 0 0 0) = true := by decide
theorem test_illegal_shr_above : isRefused (present (sized 8 8 8 9) 0 0 0) = true := by decide
theorem test_legal_least : (sized 1 1 1 1).Legal := by decide
theorem test_legal_greatest : (sized 32768 32768 32768 32768).Legal := by decide +kernel

/-! ## Decoding: words written out by R61 and R66, `n2 = 0x8003`, `n1 = 0x4005`, `rsv = 00` -/

theorem test_decode_and : decode (0b1000000000000011_0100000000000101_00_000000#40) = .ok .and := by decide
theorem test_decode_or : decode (0b1000000000000011_0100000000000101_00_000001#40) = .ok .or := by decide
theorem test_decode_xor : decode (0b1000000000000011_0100000000000101_00_000010#40) = .ok .xor := by decide
theorem test_decode_not : decode (0b1000000000000011_0100000000000101_00_000011#40) = .ok .not := by decide
theorem test_decode_shl : decode (0b1000000000000011_0100000000000101_00_000100#40) = .ok (.shl 0x4005) := by decide
theorem test_decode_shr : decode (0b1000000000000011_0100000000000101_00_000101#40) = .ok (.shr 0x4005) := by decide
theorem test_decode_rotl : decode (0b1000000000000011_0100000000000101_00_000110#40) = .ok (.rotl 0x4005) := by decide
theorem test_decode_rotr : decode (0b1000000000000011_0100000000000101_00_000111#40) = .ok (.rotr 0x4005) := by decide
theorem test_decode_clear : decode (0b1000000000000011_0100000000000101_00_001000#40) = .ok .clear := by decide
theorem test_decode_set : decode (0b1000000000000011_0100000000000101_00_001001#40) = .ok .set := by decide
theorem test_decode_toggle : decode (0b1000000000000011_0100000000000101_00_001010#40) = .ok .toggle := by decide
theorem test_decode_extract : decode (0b1000000000000011_0100000000000101_00_001011#40) = .ok (.extract 0x4005 0x8003) := by decide
theorem test_decode_clz : decode (0b1000000000000011_0100000000000101_00_001100#40) = .ok .clz := by decide
theorem test_decode_ctz : decode (0b1000000000000011_0100000000000101_00_001101#40) = .ok .ctz := by decide
theorem test_decode_union : decode (0b1000000000000011_0100000000000101_00_100000#40) = .ok .union := by decide
theorem test_decode_inter : decode (0b1000000000000011_0100000000000101_00_100001#40) = .ok .inter := by decide
theorem test_decode_diff : decode (0b1000000000000011_0100000000000101_00_100010#40) = .ok .diff := by decide
theorem test_decode_symdiff : decode (0b1000000000000011_0100000000000101_00_100011#40) = .ok .symdiff := by decide
theorem test_decode_compl : decode (0b1000000000000011_0100000000000101_00_100100#40) = .ok .compl := by decide
theorem test_decode_issub : decode (0b1000000000000011_0100000000000101_00_100101#40) = .ok .issub := by decide
theorem test_decode_issuper : decode (0b1000000000000011_0100000000000101_00_100110#40) = .ok .issuper := by decide
theorem test_decode_card : decode (0b1000000000000011_0100000000000101_00_100111#40) = .ok .card := by decide
theorem test_decode_isempty : decode (0b1000000000000011_0100000000000101_00_101000#40) = .ok .isempty := by decide
theorem test_decode_min : decode (0b1000000000000011_0100000000000101_00_101001#40) = .ok .min := by decide
theorem test_decode_max : decode (0b1000000000000011_0100000000000101_00_101010#40) = .ok .max := by decide
theorem test_decode_shlunion : decode (0b1000000000000011_0100000000000101_00_101011#40) = .ok (.shlunion 0x4005) := by decide
theorem test_decode_shrinter : decode (0b1000000000000011_0100000000000101_00_101100#40) = .ok (.shrinter 0x4005) := by decide
theorem test_decode_rotldiff : decode (0b1000000000000011_0100000000000101_00_101101#40) = .ok (.rotldiff 0x4005) := by decide
theorem test_decode_rotrsymdiff : decode (0b1000000000000011_0100000000000101_00_101110#40) = .ok (.rotrsymdiff 0x4005) := by decide
theorem test_decode_clrelem : decode (0b1000000000000011_0100000000000101_00_101111#40) = .ok .clrelem := by decide
theorem test_decode_setelem : decode (0b1000000000000011_0100000000000101_00_110000#40) = .ok .setelem := by decide
theorem test_decode_tglelem : decode (0b1000000000000011_0100000000000101_00_110001#40) = .ok .tglelem := by decide
theorem test_decode_extsub : decode (0b1000000000000011_0100000000000101_00_110010#40) = .ok (.extsub 0x4005 0x8003) := by decide
theorem test_decode_sclz : decode (0b1000000000000011_0100000000000101_00_110011#40) = .ok .sclz := by decide
theorem test_decode_sctz : decode (0b1000000000000011_0100000000000101_00_110100#40) = .ok .sctz := by decide
theorem test_decode_reserved_first : decode 0b0000000000000000_0000000000000000_00_001110#40 = .error .reservedOpcode := by
  decide
theorem test_decode_reserved_middle : decode 0b0000000000000000_0000000000000000_00_011111#40 = .error .reservedOpcode := by
  decide
theorem test_decode_reserved_upper : decode 0b0000000000000000_0000000000000000_00_110101#40 = .error .reservedOpcode := by
  decide
theorem test_decode_reserved_last : decode 0b0000000000000000_0000000000000000_00_111111#40 = .error .reservedOpcode := by
  decide
theorem test_decode_rsv_low : decode 0b0000000000000000_0000000000000000_01_100000#40 = .error .reservedField := by decide
theorem test_decode_rsv_high : decode 0b0000000000000000_0000000000000000_10_100000#40 = .error .reservedField := by decide
theorem test_encode_extsub : encode (.extsub 4 4) = 0x0004000432#40 := by decide
theorem test_encode_rotrsymdiff : encode (.rotrsymdiff 257) = 0x000001012E#40 := by decide
theorem test_table_word : decodeTableWord 40 0x0004000432 = some (.extsub 4 4) ∧ decodeTableWord 8 0x20 = some .union := by
  decide

/-! ## Single transactions: two per command, the expected values from spec/95_test_vectors.md -/

/-- `AND A, B`, consistent, W = 256. -/
theorem test_and_vector :
    answer (present Params.default 0x0000000000#40 valA valB)
      = some (0x123000089AB000000DC00980054001000102030405060708282A0A041504150, 0, false, 0) := by
  decide +kernel

/-- `AND A, FULL`, consistent, W = 256. -/
theorem test_and_corner :
    answer (present Params.default 0x0000000000#40 valA valFull)
      = some (valA, 0, false, 0) := by
  decide +kernel

/-- `OR A, B`, consistent, W = 256. -/
theorem test_or_vector :
    answer (present Params.default 0x0000000001#40 valA valB)
      = some (0xFFFF4567FFFFCDEFFEFFBAFF76FF32FFFFFEFDFCFBFAF9F8AFBEAFBED7D7F5F5, 0, false, 0) := by
  decide +kernel

/-- `OR 0xA, 0xC`, consistent, W = 256. -/
theorem test_or_corner :
    answer (present Params.default 0x0000000001#40 10 12)
      = some (14, 0, false, 0) := by
  decide +kernel

/-- `XOR A, B`, consistent, W = 256. -/
theorem test_xor_vector :
    answer (present Params.default 0x0000000002#40 valA valB)
      = some (0xFEDC45677654CDEFFE23BA6776AB32EFFFEEDDCCBBAA99882D3C0F1E9687B4A5, 0, false, 0) := by
  decide +kernel

/-- `XOR A, A`, consistent, W = 256. -/
theorem test_xor_corner :
    answer (present Params.default 0x0000000002#40 valA valA)
      = some (0, 0, false, 0) := by
  decide +kernel

/-- `NOT A`, consistent, W = 256. -/
theorem test_not_vector :
    answer (present Params.default 0x0000000003#40 valA 0)
      = some (0xFEDCBA98765432100123456789ABCDEFF0E1D2C3B4A5968778695A4B3C2D1E0F, 0, false, 0) := by
  decide +kernel

/-- `NOT 0xA`, W = 8. -/
theorem test_not_corner :
    answer (present (Params.consistent 8) 0x0000000003#40 10 0)
      = some (245, 0, false, 0) := by
  decide +kernel

/-- `SHL A, #4`, consistent, W = 256. -/
theorem test_shl_vector :
    answer (present Params.default 0x0000000404#40 valA 0)
      = some (0x123456789ABCDEFFEDCBA98765432100F1E2D3C4B5A69788796A5B4C3D2E1F00, 0, false, 0) := by
  decide +kernel

/-- `SHL A, #256`, consistent, W = 256. -/
theorem test_shl_corner :
    answer (present Params.default 0x0000010004#40 valA 0)
      = some (0, 0, false, 0) := by
  decide +kernel

/-- `SHR B, #255`, consistent, W = 256. -/
theorem test_shr_vector :
    answer (present Params.default 0x000000FF05#40 valB 0)
      = some (1, 0, false, 0) := by
  decide +kernel

/-- `SHR 0xFF, #1`, legacy. -/
theorem test_shr_corner :
    answer (present (Params.legacy 256) 0x0000000105#40 255 0)
      = some (7, 0, false, 0) := by
  decide +kernel

/-- `ROTL A, #257`, consistent, W = 256. -/
theorem test_rotl_vector :
    answer (present Params.default 0x0000010106#40 valA 0)
      = some (0x2468ACF13579BDFFDB97530ECA864201E3C5A7896B4D2F10F2D4B6987A5C3E0, 0, false, 0) := by
  decide +kernel

/-- `ROTL 0x1B1, #1`, legacy. -/
theorem test_rotl_corner :
    answer (present (Params.legacy 256) 0x0000000106#40 433 0)
      = some (99, 0, false, 0) := by
  decide +kernel

/-- `ROTR A, #255`, consistent, W = 256. -/
theorem test_rotr_vector :
    answer (present Params.default 0x000000FF07#40 valA 0)
      = some (0x2468ACF13579BDFFDB97530ECA864201E3C5A7896B4D2F10F2D4B6987A5C3E0, 0, false, 0) := by
  decide +kernel

/-- `ROTR 0x19, #1`, legacy. -/
theorem test_rotr_corner :
    answer (present (Params.legacy 256) 0x0000000107#40 25 0)
      = some (12, 0, false, 0) := by
  decide +kernel

/-- `CLEAR A, B`, consistent, W = 256. -/
theorem test_clear_vector :
    answer (present Params.default 0x0000000008#40 valA valB)
      = some (0x45670000CDEFFE00BA00760032000F0E0D0C0B0A0908051405148282A0A0, 0, false, 0) := by
  decide +kernel

/-- `CLEAR A, A`, consistent, W = 256. -/
theorem test_clear_corner :
    answer (present Params.default 0x0000000008#40 valA valA)
      = some (0, 0, false, 0) := by
  decide +kernel

/-- `SET A, B`, consistent, W = 256. -/
theorem test_set_vector :
    answer (present Params.default 0x0000000009#40 valA valB)
      = some (0xFFFF4567FFFFCDEFFEFFBAFF76FF32FFFFFEFDFCFBFAF9F8AFBEAFBED7D7F5F5, 0, false, 0) := by
  decide +kernel

/-- `SET A, 0x0`, consistent, W = 256. -/
theorem test_set_corner :
    answer (present Params.default 0x0000000009#40 valA 0)
      = some (valA, 0, false, 0) := by
  decide +kernel

/-- `TOGGLE A, B`, consistent, W = 256. -/
theorem test_toggle_vector :
    answer (present Params.default 0x000000000A#40 valA valB)
      = some (0xFEDC45677654CDEFFE23BA6776AB32EFFFEEDDCCBBAA99882D3C0F1E9687B4A5, 0, false, 0) := by
  decide +kernel

/-- `TOGGLE A, FULL`, consistent, W = 256. -/
theorem test_toggle_corner :
    answer (present Params.default 0x000000000A#40 valA valFull)
      = some (0xFEDCBA98765432100123456789ABCDEFF0E1D2C3B4A5968778695A4B3C2D1E0F, 0, false, 0) := by
  decide +kernel

/-- `EXTRACT A, #60, #8`, consistent, W = 256. -/
theorem test_extract_vector :
    answer (present Params.default 0x0008003C0B#40 valA 0)
      = some (136, 0, false, 0) := by
  decide +kernel

/-- `EXTRACT A, #65535, #1`, consistent, W = 256. -/
theorem test_extract_corner :
    answer (present Params.default 0x0001FFFF0B#40 valA 0)
      = some (0, 0, false, 2) := by
  decide +kernel

/-- `CLZ A`, consistent, W = 256. -/
theorem test_clz_vector :
    answer (present Params.default 0x000000000C#40 valA 0)
      = some (0, 7, false, 0) := by
  decide +kernel

/-- `CLZ 0x0`, consistent, W = 256. -/
theorem test_clz_corner :
    answer (present Params.default 0x000000000C#40 0 0)
      = some (0, 256, false, 0) := by
  decide +kernel

/-- `CTZ A`, consistent, W = 256. -/
theorem test_ctz_vector :
    answer (present Params.default 0x000000000D#40 valA 0)
      = some (0, 4, false, 0) := by
  decide +kernel

/-- `CTZ 0x0`, consistent, W = 256. -/
theorem test_ctz_corner :
    answer (present Params.default 0x000000000D#40 0 0)
      = some (0, 256, false, 0) := by
  decide +kernel

/-- `UNION A, B`, consistent, W = 256. -/
theorem test_union_vector :
    answer (present Params.default 0x0000000020#40 valA valB)
      = some (0xFFFF4567FFFFCDEFFEFFBAFF76FF32FFFFFEFDFCFBFAF9F8AFBEAFBED7D7F5F5, 0, false, 0) := by
  decide +kernel

/-- `source example 1`, consistent, W = 256. -/
theorem test_union_corner :
    answer (present Params.default 0x0000000020#40 10 12)
      = some (14, 0, false, 0) := by
  decide +kernel

/-- `INTER A, B`, consistent, W = 256. -/
theorem test_inter_vector :
    answer (present Params.default 0x0000000021#40 valA valB)
      = some (0x123000089AB000000DC00980054001000102030405060708282A0A041504150, 0, false, 0) := by
  decide +kernel

/-- `source example 2`, consistent, W = 256. -/
theorem test_inter_corner :
    answer (present Params.default 0x0000000021#40 10 12)
      = some (8, 0, false, 0) := by
  decide +kernel

/-- `DIFF A, B`, consistent, W = 256. -/
theorem test_diff_vector :
    answer (present Params.default 0x0000000022#40 valA valB)
      = some (0x45670000CDEFFE00BA00760032000F0E0D0C0B0A0908051405148282A0A0, 0, false, 0) := by
  decide +kernel

/-- `DIFF 0xC, 0xA`, consistent, W = 256. -/
theorem test_diff_corner :
    answer (present Params.default 0x0000000022#40 12 10)
      = some (4, 0, false, 0) := by
  decide +kernel

/-- `SYMDIFF A, B`, consistent, W = 256. -/
theorem test_symdiff_vector :
    answer (present Params.default 0x0000000023#40 valA valB)
      = some (0xFEDC45677654CDEFFE23BA6776AB32EFFFEEDDCCBBAA99882D3C0F1E9687B4A5, 0, false, 0) := by
  decide +kernel

/-- `source example 4`, consistent, W = 256. -/
theorem test_symdiff_corner :
    answer (present Params.default 0x0000000023#40 10 12)
      = some (6, 0, false, 0) := by
  decide +kernel

/-- `COMPL A`, consistent, W = 256. -/
theorem test_compl_vector :
    answer (present Params.default 0x0000000024#40 valA 0)
      = some (0xFEDCBA98765432100123456789ABCDEFF0E1D2C3B4A5968778695A4B3C2D1E0F, 0, false, 0) := by
  decide +kernel

/-- `COMPL 0x0`, W = 8. -/
theorem test_compl_corner :
    answer (present (Params.consistent 8) 0x0000000024#40 0 0)
      = some (255, 0, false, 0) := by
  decide +kernel

/-- `ISSUB A&B, A`, consistent, W = 256. -/
theorem test_issub_vector :
    answer (present Params.default 0x0000000025#40 0x123000089AB000000DC00980054001000102030405060708282A0A041504150 valA)
      = some (0, 0, true, 0) := by
  decide +kernel

/-- `ISSUB A, A&B`, consistent, W = 256. -/
theorem test_issub_corner :
    answer (present Params.default 0x0000000025#40 valA 0x123000089AB000000DC00980054001000102030405060708282A0A041504150)
      = some (0, 0, false, 0) := by
  decide +kernel

/-- `ISSUPER A, A&B`, consistent, W = 256. -/
theorem test_issuper_vector :
    answer (present Params.default 0x0000000026#40 valA 0x123000089AB000000DC00980054001000102030405060708282A0A041504150)
      = some (0, 0, true, 0) := by
  decide +kernel

/-- `ISSUPER 0x0, 2^255`, consistent, W = 256. -/
theorem test_issuper_corner :
    answer (present Params.default 0x0000000026#40 0 (2 ^ 255))
      = some (0, 0, false, 0) := by
  decide +kernel

/-- `CARD A`, consistent, W = 256. -/
theorem test_card_vector :
    answer (present Params.default 0x0000000027#40 valA 0)
      = some (0, 128, false, 0) := by
  decide +kernel

/-- `CARD FULL`, consistent, W = 256. -/
theorem test_card_corner :
    answer (present Params.default 0x0000000027#40 valFull 0)
      = some (0, 256, false, 0) := by
  decide +kernel

/-- `ISEMPTY 0x0`, consistent, W = 256. -/
theorem test_isempty_vector :
    answer (present Params.default 0x0000000028#40 0 0)
      = some (0, 0, true, 0) := by
  decide +kernel

/-- `ISEMPTY 2^255`, consistent, W = 256. -/
theorem test_isempty_corner :
    answer (present Params.default 0x0000000028#40 (2 ^ 255) 0)
      = some (0, 0, false, 0) := by
  decide +kernel

/-- `MIN 2^255`, consistent, W = 256. -/
theorem test_min_vector :
    answer (present Params.default 0x0000000029#40 (2 ^ 255) 0)
      = some (0, 255, false, 0) := by
  decide +kernel

/-- `MIN 0x0`, consistent, W = 256. -/
theorem test_min_corner :
    answer (present Params.default 0x0000000029#40 0 0)
      = some (0, 0, false, 1) := by
  decide +kernel

/-- `MAX A`, consistent, W = 256. -/
theorem test_max_vector :
    answer (present Params.default 0x000000002A#40 valA 0)
      = some (0, 248, false, 0) := by
  decide +kernel

/-- `MAX 0x0`, consistent, W = 256. -/
theorem test_max_corner :
    answer (present Params.default 0x000000002A#40 0 0)
      = some (0, 0, false, 1) := by
  decide +kernel

/-- `SHLUNION A, B, #4`, consistent, W = 256. -/
theorem test_shlunion_vector :
    answer (present Params.default 0x000000042B#40 valA valB)
      = some (0xFFFF5678FFFFDEFFEDFFA9FF65FF21FFF1F2F3F4F5F6F7F8FBEAFBEE7D7F5F55, 0, false, 0) := by
  decide +kernel

/-- `SHLUNION A, B, #256`, consistent, W = 256. -/
theorem test_shlunion_corner :
    answer (present Params.default 0x000001002B#40 valA valB)
      = some (valB, 0, false, 0) := by
  decide +kernel

/-- `SHRINTER A, B, #4`, consistent, W = 256. -/
theorem test_shrinter_vector :
    answer (present Params.default 0x000000042C#40 valA valB)
      = some (0x120000789A000000ED00A90065002100F0E0D0C0B0A09088282A0A44150415, 0, false, 0) := by
  decide +kernel

/-- `SHRINTER 0xFF, 0xF, #1`, legacy. -/
theorem test_shrinter_corner :
    answer (present (Params.legacy 256) 0x000000012C#40 255 15)
      = some (7, 0, false, 0) := by
  decide +kernel

/-- `ROTLDIFF A, B, #4`, consistent, W = 256. -/
theorem test_rotldiff_vector :
    answer (present Params.default 0x000000042D#40 valA valB)
      = some (0x56780000DEFFED00A90065002100010203040506070851405144282A0A00, 0, false, 0) := by
  decide +kernel

/-- `ROTLDIFF 0xB1, 0x1, #1`, legacy. -/
theorem test_rotldiff_corner :
    answer (present (Params.legacy 256) 0x000000012D#40 177 1)
      = some (98, 0, false, 0) := by
  decide +kernel

/-- `ROTRSYMDIFF A, B, #4`, consistent, W = 256. -/
theorem test_rotrsymdiff_vector :
    answer (present Params.default 0x000000042E#40 valA valB)
      = some (0xFFED34568765BCDEFF12CB56879A43DEF00112233445566722D3C0F119687B4A, 0, false, 0) := by
  decide +kernel

/-- `ROTRSYMDIFF 0x9, 0xF0, #1`, legacy. -/
theorem test_rotrsymdiff_corner :
    answer (present (Params.legacy 256) 0x000000012E#40 9 240)
      = some (252, 0, false, 0) := by
  decide +kernel

/-- `CLRELEM A, B`, consistent, W = 256. -/
theorem test_clrelem_vector :
    answer (present Params.default 0x000000002F#40 valA valB)
      = some (0x45670000CDEFFE00BA00760032000F0E0D0C0B0A0908051405148282A0A0, 0, false, 0) := by
  decide +kernel

/-- `source example 6a`, consistent, W = 256. -/
theorem test_clrelem_corner :
    answer (present Params.default 0x000000002F#40 15 10)
      = some (5, 0, false, 0) := by
  decide +kernel

/-- `SETELEM A, B`, consistent, W = 256. -/
theorem test_setelem_vector :
    answer (present Params.default 0x0000000030#40 valA valB)
      = some (0xFFFF4567FFFFCDEFFEFFBAFF76FF32FFFFFEFDFCFBFAF9F8AFBEAFBED7D7F5F5, 0, false, 0) := by
  decide +kernel

/-- `source example 6b`, consistent, W = 256. -/
theorem test_setelem_corner :
    answer (present Params.default 0x0000000030#40 5 10)
      = some (15, 0, false, 0) := by
  decide +kernel

/-- `TGLELEM A, B`, consistent, W = 256. -/
theorem test_tglelem_vector :
    answer (present Params.default 0x0000000031#40 valA valB)
      = some (0xFEDC45677654CDEFFE23BA6776AB32EFFFEEDDCCBBAA99882D3C0F1E9687B4A5, 0, false, 0) := by
  decide +kernel

/-- `source example 6c`, consistent, W = 256. -/
theorem test_tglelem_corner :
    answer (present Params.default 0x0000000031#40 15 10)
      = some (5, 0, false, 0) := by
  decide +kernel

/-- `EXTSUB 0xF0, #4, #4`, consistent, W = 256. -/
theorem test_extsub_vector :
    answer (present Params.default 0x0004000432#40 240 0)
      = some (15, 0, false, 0) := by
  decide +kernel

/-- `EXTSUB A, #255, #2`, consistent, W = 256. -/
theorem test_extsub_corner :
    answer (present Params.default 0x000200FF32#40 valA 0)
      = some (0, 0, false, 2) := by
  decide +kernel

/-- `SCLZ 0x0`, consistent, W = 256. -/
theorem test_sclz_vector :
    answer (present Params.default 0x0000000033#40 0 0)
      = some (0, 256, false, 0) := by
  decide +kernel

/-- `SCLZ A`, consistent, W = 256. -/
theorem test_sclz_corner :
    answer (present Params.default 0x0000000033#40 valA 0)
      = some (0, 7, false, 0) := by
  decide +kernel

/-- `SCTZ 0x0`, consistent, W = 256. -/
theorem test_sctz_vector :
    answer (present Params.default 0x0000000034#40 0 0)
      = some (0, 256, false, 0) := by
  decide +kernel

/-- `SCTZ A`, consistent, W = 256. -/
theorem test_sctz_corner :
    answer (present Params.default 0x0000000034#40 valA 0)
      = some (0, 4, false, 0) := by
  decide +kernel

/-! ## Idle, errors, trace, fetch -/

/-- 10_state.md R28: without a request every output is 0, whatever the inputs carry. -/
theorem test_idle : answer ((present Params.default 0x0000000020#40 10 12).withdraw) = some (0, 0, false, 0) := by
  decide +kernel

/-- 60_exceptions.md R243: a reserved opcode and a wrong `rsv` give `err = 3`, also where the operands would fail. -/
theorem test_illegal_op :
    answer (present Params.default 0x000000000E#40 valA 0) = some (0, 0, false, 3) ∧
    answer (present Params.default 0x0000000069#40 0 0) = some (0, 0, false, 3) := by
  decide +kernel

/-- 60_exceptions.md R256: the record of `NOT 10` at `W = 8` has the ignored fields and `b` as 0. -/
theorem test_trace_record :
    record (present { Params.consistent 8 with traceEn := true } 0x1234567803#40 10 0xFF)
      = some (true, 0x03, 10, 0, 0xF5, 0) := by
  decide +kernel

/-- 60_exceptions.md R246, R256: a failed transaction leaves no record. -/
theorem test_trace_failed :
    record (present { Params.consistent 8 with traceEn := true } 0x0000000029#40 0 0xFF)
      = some (false, 0, 0, 0, 0, 0) := by
  decide +kernel

/-- From reset, the placed word runs as the first command: `NOT` of 0 gives `FULL` (R103). -/
theorem test_fetch : answer (State.reset.withFetchWord 40 0x0000000003) = some (valFull, 0, false, 0) := by decide +kernel

/-! ## Witnesses: for every statement with hypotheses, inputs that meet all of them -/

/-- The step's outcome is a next state, and which one. -/
abbrev stepsTo (s t : State) : Prop := step s = .next t

theorem test_witness_IdleDrivesZeroOnEveryOutput :
    (State.reset.params.Legal ∧ State.reset.req.valid = false) ∧
    (present (narrow true) 0x29#40 0 0).withdraw.params.Legal ∧
      (present (narrow true) 0x29#40 0 0).withdraw.req.valid = false := by decide

theorem test_witness_StepRunsDecodedInstruction :
    let s := present (narrow true) 0x20#40 10 12
    s.params.Legal ∧ s.req.valid = true ∧ decode s.req.cmd = .ok .union ∧
      exec .union s = .next { s with rsp := setResponse true (bpeOr s.req.a s.req.b) } :=
  ⟨by decide, rfl, by decide, rfl⟩

theorem test_witness_StepCompletesAndDrivesOutputsOnly :
    (present (sized 1 1 1 1) 0x3F#40 1 1).params.Legal ∧ (present (narrow false) 0#40 1 1).params.Legal := by decide

theorem test_witness_TransactionIsIdempotent : stepsTo State.reset State.reset := rfl

/-- One pair of words for each format: U, B, P, BP, X; the ignored fields and the ignored port differ. -/
theorem test_witness_IgnoredInputsHaveNoEffect :
    ((narrow true).Legal ∧ (present (narrow true) 0x03#40 10 12).req.valid = true) ∧
    (decode 0x0000000003#40 = .ok .not ∧ (0xFFFFFFFF03#40).toNat % 2 ^ 8 = (0x0000000003#40).toNat % 2 ^ 8 ∧
      0x03 ∉ opcodesReadingN1 ∧ 0x03 ∉ opcodesReadingN2 ∧ 0x03 ∉ opcodesReadingB) ∧
    (decode 0x0000000020#40 = .ok .union ∧ (0xFFFFFFFF20#40).toNat % 2 ^ 8 = (0x0000000020#40).toNat % 2 ^ 8 ∧
      0x20 ∉ opcodesReadingN1 ∧ 0x20 ∉ opcodesReadingN2 ∧ 0x20 ∈ opcodesReadingB) ∧
    (decode 0x0000000204#40 = .ok (.shl 2) ∧ (0xFFFF000204#40).toNat % 2 ^ 8 = (0x0000000204#40).toNat % 2 ^ 8 ∧
      (0xFFFF000204#40).toNat / 2 ^ 8 % 2 ^ 16 = (0x0000000204#40).toNat / 2 ^ 8 % 2 ^ 16 ∧
      0x04 ∉ opcodesReadingN2 ∧ 0x04 ∉ opcodesReadingB) ∧
    (decode 0x000000022B#40 = .ok (.shlunion 2) ∧ (0xFFFF00022B#40).toNat % 2 ^ 8 = (0x000000022B#40).toNat % 2 ^ 8 ∧
      (0xFFFF00022B#40).toNat / 2 ^ 8 % 2 ^ 16 = (0x000000022B#40).toNat / 2 ^ 8 % 2 ^ 16 ∧
      0x2B ∉ opcodesReadingN2 ∧ 0x2B ∈ opcodesReadingB) ∧
    (decode 0x0004000432#40 = .ok (.extsub 4 4) ∧ 0x32 ∉ opcodesReadingB) := by
  decide

/-- The words of the second part: well-formed, with an opcode that reads neither field, `n1` only, and both. -/
theorem test_witness_IgnoredInputsHaveNoEffect_encodings :
    (Instr.union.wellFormed = true ∧ (encode .union).toNat % 2 ^ 6 ∉ opcodesReadingN1 ∧
      (encode .union).toNat % 2 ^ 6 ∉ opcodesReadingN2) ∧
    ((Instr.shl 65535).wellFormed = true ∧ (encode (.shl 65535)).toNat % 2 ^ 6 ∉ opcodesReadingN2) ∧
    (Instr.extsub 65535 65535).wellFormed = true := by
  decide

theorem test_witness_StepKeepsPortsConsistent :
    PortsConsistent State.reset ∧ stepsTo State.reset State.reset ∧
    PortsConsistent (present (narrow false) 0x29#40 0 0) ∧
    stepsTo (present (narrow false) 0x29#40 0 0)
      { present (narrow false) 0x29#40 0 0 with rsp := errorResponse true .emptySet } :=
  ⟨⟨by decide, ⟨by decide, by decide, by decide, by decide, by decide⟩, rfl, fun p h => by cases h⟩, rfl,
    ⟨by decide, ⟨by decide, by decide, by decide, by decide, by decide⟩, rfl, fun p h => by cases h⟩, rfl⟩

theorem test_witness_DecodeEncodeRoundTrip :
    (Instr.extract 0 0).wellFormed = true ∧ (Instr.extract 65535 65535).wellFormed = true ∧
    (Instr.rotr 65535).wellFormed = true ∧ Instr.sctz.wellFormed = true := by decide

theorem test_witness_DecodedWordIsEncodingUpToIgnoredFields :
    decode 0xFFFFFFFF03#40 = .ok .not ∧ decode 0xFFFFFFFF20#40 = .ok .union ∧
    decode 0xFFFFFFFF07#40 = .ok (.rotr 65535) ∧ decode 0xFFFFFFFF2E#40 = .ok (.rotrsymdiff 65535) ∧
    decode 0xFFFFFFFF32#40 = .ok (.extsub 65535 65535) := by decide

theorem test_witness_CommandWordIsTheNumberOfItsFields :
    decode 0xFFFE00012E#40 = .ok (.rotrsymdiff 1) ∧ decode 0xFFFE000132#40 = .ok (.extsub 1 65534) ∧
    (Instr.extsub 1 65534).wellFormed = true := by decide

/-- Low bytes of the 35 commands, in words with every other bit 1. -/
theorem test_witness_low_bytes :
    [0x00, 0x01, 0x02, 0x03, 0x04, 0x05, 0x06, 0x07, 0x08, 0x09, 0x0A, 0x0B, 0x0C, 0x0D, 0x20, 0x21, 0x22, 0x23, 0x24,
      0x25, 0x26, 0x27, 0x28, 0x29, 0x2A, 0x2B, 0x2C, 0x2D, 0x2E, 0x2F, 0x30, 0x31, 0x32, 0x33, 0x34].all
      (fun k => (BitVec.ofNat 40 (0xFFFFFFFF00 + k)).toNat % 2 ^ 8 == k) = true := by decide

/-- The `c` of the first part of BitwiseLogicBitByBit to SetZeroCountersAgreeWithExtremes, one word each; the second part of
those not listed below has no hypothesis. -/
theorem test_witness_BitwiseLogicBitByBit :
    (0xFFFFFFFF00#40).toNat % 2 ^ 8 = 0x00 ∧ (0xFFFFFFFF01#40).toNat % 2 ^ 8 = 0x01 ∧
    (0xFFFFFFFF02#40).toNat % 2 ^ 8 = 0x02 ∧ (0xFFFFFFFF03#40).toNat % 2 ^ 8 = 0x03 := by decide
theorem test_witness_ShiftLeftBitByBit : (0xFFFFFFFF04#40).toNat % 2 ^ 8 = 0x04 := by decide
theorem test_witness_ShiftRightBitByBit : (0xFFFFFFFF05#40).toNat % 2 ^ 8 = 0x05 := by decide
theorem test_witness_RotateLeftBitByBit :
    (0xFFFFFFFF06#40).toNat % 2 ^ 8 = 0x06 ∧ (present (sized 8 1 8 8) 0x106#40 1 0).params.Legal ∧
    (present (sized 8 8 1 1) 0x106#40 1 0).params.Legal := by decide
theorem test_witness_RotateRightBitByBit :
    (0xFFFFFFFF07#40).toNat % 2 ^ 8 = 0x07 ∧ (present (sized 8 8 1 8) 0x107#40 1 0).params.Legal ∧
    (present (sized 8 1 8 1) 0x107#40 1 0).params.Legal := by decide
theorem test_witness_MaskedMutationBitByBit :
    (0xFFFFFFFF08#40).toNat % 2 ^ 8 = 0x08 ∧ (0xFFFFFFFF09#40).toNat % 2 ^ 8 = 0x09 ∧
    (0xFFFFFFFF0A#40).toNat % 2 ^ 8 = 0x0A := by decide

/-- The largest valid and the smallest invalid range, at both ends. -/
theorem test_witness_ExtractRightAlignsOrRejects :
    (0xFFFFFFFF0B#40).toNat % 2 ^ 8 = 0x0B ∧
    (8 + 0 ≤ (present (narrow false) 0#40 1 0).params.W ∧ 0 + 8 ≤ (present (narrow false) 0#40 1 0).params.W) ∧
    (present (narrow false) 0#40 1 0).params.W < 9 + 0 ∧ (present (narrow false) 0#40 1 0).params.W < 7 + 2 := by decide
theorem test_witness_ZeroCountersAreLeastCounts :
    (0xFFFFFFFF0C#40).toNat % 2 ^ 8 = 0x0C ∧ (0xFFFFFFFF0D#40).toNat % 2 ^ 8 = 0x0D ∧
    (present (narrow false) 0x0C#40 0 0).params.Legal ∧ (present (sized 1 1 1 1) 0x0C#40 1 0).params.Legal := by decide
theorem test_witness_BasicSetAlgebraElementwise :
    (0xFFFFFFFF20#40).toNat % 2 ^ 8 = 0x20 ∧ (0xFFFFFFFF21#40).toNat % 2 ^ 8 = 0x21 ∧
    (0xFFFFFFFF22#40).toNat % 2 ^ 8 = 0x22 ∧ (0xFFFFFFFF23#40).toNat % 2 ^ 8 = 0x23 ∧
    (0xFFFFFFFF24#40).toNat % 2 ^ 8 = 0x24 := by decide
theorem test_witness_PredicatesDecideInclusion :
    (0xFFFFFFFF25#40).toNat % 2 ^ 8 = 0x25 ∧ (0xFFFFFFFF26#40).toNat % 2 ^ 8 = 0x26 ∧
    (0xFFFFFFFF28#40).toNat % 2 ^ 8 = 0x28 := by decide
theorem test_witness_CardinalityCountsElements :
    (0xFFFFFFFF27#40).toNat % 2 ^ 8 = 0x27 ∧ (present (narrow false) 0x27#40 0xFF 0).params.Legal := by decide
theorem test_witness_MinMaxAreExtremeElements :
    (0xFFFFFFFF29#40).toNat % 2 ^ 8 = 0x29 ∧ (0xFFFFFFFF2A#40).toNat % 2 ^ 8 = 0x2A ∧ (narrow false).Legal ∧
    (present (narrow false) 0x29#40 0x80 0).req.a ≠ 0 ∧ (present (narrow false) 0x29#40 0 0).req.a = 0 := by decide
theorem test_witness_ShiftLeftUnionBitByBit : (0xFFFFFFFF2B#40).toNat % 2 ^ 8 = 0x2B := by decide
theorem test_witness_ShiftRightIntersectionBitByBit : (0xFFFFFFFF2C#40).toNat % 2 ^ 8 = 0x2C := by decide
theorem test_witness_RotateLeftDifferenceBitByBit :
    (0xFFFFFFFF2D#40).toNat % 2 ^ 8 = 0x2D ∧ (present (sized 8 1 8 8) 0x12D#40 1 0).params.Legal := by decide
theorem test_witness_RotateRightSymmetricDifferenceBitByBit :
    (0xFFFFFFFF2E#40).toNat % 2 ^ 8 = 0x2E ∧ (present (sized 8 8 1 8) 0x12E#40 1 0).params.Legal := by decide
theorem test_witness_ElementMutationElementwise :
    (0xFFFFFFFF2F#40).toNat % 2 ^ 8 = 0x2F ∧ (0xFFFFFFFF30#40).toNat % 2 ^ 8 = 0x30 ∧
    (0xFFFFFFFF31#40).toNat % 2 ^ 8 = 0x31 := by decide
theorem test_witness_ExtractSubsetRebasesOrRejects :
    (0xFFFFFFFF32#40).toNat % 2 ^ 8 = 0x32 ∧
    (8 + 0 ≤ (present (narrow false) 0#40 1 0).params.W ∧ 0 + 8 ≤ (present (narrow false) 0#40 1 0).params.W) ∧
    (present (narrow false) 0#40 1 0).params.W < 9 + 0 ∧ (present (narrow false) 0#40 1 0).params.W < 7 + 2 := by decide

/-- The empty set, and a set whose least element is 0 and whose greatest is `W - 1`. -/
theorem test_witness_SetZeroCountersAgreeWithExtremes :
    (0xFFFFFFFF33#40).toNat % 2 ^ 8 = 0x33 ∧ (0xFFFFFFFF34#40).toNat % 2 ^ 8 = 0x34 ∧ (narrow false).Legal ∧
    (present (narrow false) 0x33#40 0 0).req.a = 0 ∧
    ((present (narrow false) 0x33#40 0x81 0).req.a.getLsbD 7 = true ∧
      ∀ k, 7 < k → (present (narrow false) 0x33#40 0x81 0).req.a.getLsbD k = false) ∧
    (present (narrow false) 0x33#40 0x81 0).req.a.getLsbD 0 = true ∧
      ∀ k, k < 0 → (present (narrow false) 0x33#40 0x81 0).req.a.getLsbD k = false :=
  ⟨by decide, by decide, by decide, by decide, ⟨by decide, fun _ h => BitVec.getLsbD_of_ge _ _ h⟩, by decide,
    fun _ h => absurd h (Nat.not_lt_zero _)⟩

theorem test_witness_UnnamedResultPortsCarryZero :
    let s := present (narrow false) 0x29#40 0 0
    s.params.Legal ∧ s.req.valid = true ∧
      s.req.cmd.toNat % 2 ^ 6 ∈ [0x0C, 0x0D, 0x27, 0x29, 0x2A, 0x33, 0x34, 0x25, 0x26, 0x28] ∧
      s.req.cmd.toNat % 2 ^ 6 ∉ [0x25, 0x26, 0x28] ∧
      (present (narrow false) 0x20#40 0 0).req.cmd.toNat % 2 ^ 6 ∉ [0x0C, 0x0D, 0x27, 0x29, 0x2A, 0x33, 0x34] ∧
      answer s = some (0, 0, false, 1) := by decide +kernel

/-- Every side of the three clauses: MIN of 0 and of 1, EXTRACT at `W` and at `W + 1`, and a command that cannot fail. -/
theorem test_witness_DataErrorsExactlyWhereNamed :
    (narrow false).Legal ∧ (present (narrow false) 0x29#40 0 0).req.valid = true ∧
    answer (present (narrow false) 0x29#40 0 0) = some (0, 0, false, 1) ∧
    answer (present (narrow false) 0x29#40 1 0) = some (0, 0, false, 0) ∧
    answer (present (narrow false) 0x000400040B#40 0xF0 0) = some (15, 0, false, 0) ∧
    answer (present (narrow false) 0x000500040B#40 0xF0 0) = some (0, 0, false, 2) ∧
    decode 0x34#40 = .ok .sctz ∧ (0x34#40).toNat % 2 ^ 8 ∉ [0x0B, 0x29, 0x2A, 0x32] := by decide +kernel

theorem test_witness_FailedTransactionHasNoEffect :
    answer (present (narrow true) 0x2A#40 0 0) = some (0, 0, false, 1) ∧
    answer (present (narrow true) 0x0001000832#40 0 0) = some (0, 0, false, 2) ∧
    answer (present (narrow true) 0x0E#40 0 0) = some (0, 0, false, 3) ∧
    stepsTo (present (narrow false) 0x2A#40 0 0)
      { present (narrow false) 0x2A#40 0 0 with rsp := errorResponse true .emptySet } ∧
    (errorResponse true .emptySet : Response 8).err ≠ 0 :=
  ⟨by decide +kernel, by decide +kernel, by decide +kernel, rfl, by decide⟩

/-- The bounds of the two reserved ranges, and each wrong value of `rsv`. -/
theorem test_witness_IllegalWordRaisesIllegalOp :
    (narrow true).Legal ∧ (present (narrow true) 0x0E#40 0 0).req.valid = true ∧
    (0x0E ≤ (0x0E#40).toNat % 2 ^ 6 ∧ (0x0E#40).toNat % 2 ^ 6 ≤ 0x1F) ∧
    (0x0E ≤ (0x1F#40).toNat % 2 ^ 6 ∧ (0x1F#40).toNat % 2 ^ 6 ≤ 0x1F) ∧
    (0x35 ≤ (0x35#40).toNat % 2 ^ 6 ∧ (0x35#40).toNat % 2 ^ 6 ≤ 0x3F) ∧
    (0x35 ≤ (0x3F#40).toNat % 2 ^ 6 ∧ (0x3F#40).toNat % 2 ^ 6 ≤ 0x3F) ∧
    (0x60#40).toNat / 2 ^ 6 % 4 ≠ 0 ∧ (0xA0#40).toNat / 2 ^ 6 % 4 ≠ 0 ∧ (0xE0#40).toNat / 2 ^ 6 % 4 ≠ 0 := by decide

theorem test_witness_IllegalOpOnlyFromIllegalWord :
    stepsTo (present (narrow false) 0x0E#40 0 0)
      { present (narrow false) 0x0E#40 0 0 with rsp := errorResponse true .illegalOp } ∧
    stepsTo State.reset State.reset := ⟨rfl, rfl⟩

theorem test_witness_TraceEnableIsNotFunctional :
    (present (narrow false) 0x20#40 1 2).params.Legal ∧ (present (narrow true) 0x20#40 1 2).params.Legal := by decide

theorem test_witness_TraceRecordOfTransaction :
    (narrow true).Legal ∧ (narrow false).Legal ∧ (narrow false).traceEn = false ∧ (narrow true).traceEn = true := by
  decide

theorem test_witness_TraceRecordOfTransaction_record :
    record (present (narrow true) 0xFFFFFFFF20#40 10 12) = some (true, 0x20, 10, 12, 14, 0) := by decide +kernel

/-- 30_encoding.md R62, 60_exceptions.md R256: `SHL 10, #1` shows `n1` but neither `n2` nor `b`. -/
theorem test_trace_record_shl :
    record (present (narrow true) 0xFFFF000104#40 10 12) = some (true, 0x0104, 10, 0, 20, 0) := by decide +kernel

theorem test_witness_TraceRecordOfTransaction_none :
    record (present (narrow true) 0x29#40 0 12) = some (false, 0, 0, 0, 0, 0) := by decide +kernel

theorem test_witness_RotatesOfOneWindowCompose :
    (sized 8 5 5 8).Legal ∧ (sized 8 5 5 8).rotlWin = (sized 8 5 5 8).rotrWin ∧
    (0x1F#8).toNat < 2 ^ (sized 8 5 5 8).rotlWin ∧ 65530 + 5 ≤ 65535 := by decide

theorem test_witness_ConsistentRotateKeepsCardinality :
    (Params.consistent 8).Legal ∧ (Params.consistent 8).rotlWin = (Params.consistent 8).W ∧
    (Params.consistent 8).rotrWin = (Params.consistent 8).W ∧ 65535 ≤ 65535 := by decide

theorem test_witness_CountersAndExtremesAgree : (narrow false).Legal ∧ 0x80#8 ≠ 0 ∧ 0#8 = 0 := by decide

theorem test_witness_UnpresentableCountsHaveSubstitutes :
    (narrow false).Legal ∧ 65535 < 65536 ∧ (narrow false).W ≤ 8 := by decide

theorem test_witness_PresentedCountsFitAndAgree :
    (narrow false).Legal ∧ presentedAmount 65536 = 65535 ∧ presentedRotate 6 65536 = 4 := by decide

/-- Each premise on the windows, in an instance that meets it. -/
theorem test_witness_CallerDiscoversConfiguration :
    (Params.default.Legal ∧ Params.default.W = 256 ∧ Params.default.rotlWin = 256) ∧
    ((Params.legacy 256).Legal ∧ (Params.legacy 256).rotlWin = 8 ∧ (Params.legacy 256).rotrWin = 4 ∧
      (Params.legacy 256).shrWin = 4) ∧
    (Params.consistent 1).Legal ∧ (Params.consistent 1).rotrWin = (Params.consistent 1).W ∧
    (Params.consistent 1).shrWin = (Params.consistent 1).W := by decide

theorem test_witness_PseudoInstructionsExpand :
    (narrow false).Legal ∧ 7 ≤ 65535 ∧ 7 < (narrow false).W ∧ (narrow false).W ≤ 8 ∧ 65535 ≤ 65535 := by decide

theorem test_witness_StoredBytesAreTheLanes : 4 < (40 + 7) / 8 ∧ 31 < (256 + 7) / 8 ∧ 0 < (1 + 7) / 8 ∧ 7 < 8 := by decide

theorem test_witness_ScriptLineResultIsThePortOfItsKind :
    (narrow false).Legal ∧ (pseudoMember (1#8) 7).instr.wellFormed = true ∧
    Instr.card.wellFormed = true ∧ Instr.issub.wellFormed = true ∧
    answer (present (narrow false) 0x0001000832#40 0xFF 0) = some (0, 0, false, 2) := by decide +kernel

/-- 20_memory.md R42, by hand: lane 0, the low byte, at the lowest address. -/
theorem test_stored_command : storedCells 16 0x0004000432#40 = [(16, 0x32), (17, 0x04), (18, 0x00), (19, 0x04), (20, 0x00)] := by
  decide

theorem test_witness_UnionIntersectionLaws : (present (narrow false) 0#40 1 2).params.Legal := by decide
theorem test_witness_ComplementLaws : (present (sized 1 1 1 1) 0#40 1 0).params.Legal := by decide
theorem test_witness_SymmetricDifferenceAndInclusionLaws : (present (narrow true) 0#40 1 2).params.Legal := by decide
theorem test_witness_BoundaryBehaviours : (narrow false).Legal ∧ 1#8 ≠ 0 ∧ 0#8 = 0 := by decide
theorem test_witness_CardinalityOfComplement : (present (narrow false) 0#40 0xFF 0).params.Legal := by decide
theorem test_witness_RemovingTheLeastElementDecreasesCardinality : (narrow false).Legal ∧ 0x80#8 ≠ 0 := by decide

end Sys2Proof.Tests
end

/-! # The scope of the block

The step with legal parameters in closed form, as a function of its parameters and its request (R22, R25), and what follows
from it: completion, the frame, independence of history and of `TRACE_EN`, and the invariant of the ports. -/

namespace Sys2Proof.Machine

variable {w : Nat}

/-! ## The response of a command as a function of its inputs -/

/-- The response of a set-valued function that may fail. -/
def setOrErrorResponse (valid : Bool) : Except Error (SetWord w) → Response w
  | .ok v => setResponse valid v
  | .error e => errorResponse valid e

/-- The response of an integer-valued function that may fail. -/
def cntOrErrorResponse (valid : Bool) : Except Error Nat → Response w
  | .ok n => cntResponse valid n
  | .error e => errorResponse valid e

theorem answerSetOrRaise_eq (s : State) (x : Except Error (SetWord s.params.W)) :
    answerSetOrRaise s x = .next (s.respond (setOrErrorResponse s.req.valid x)) := by
  cases x <;> rfl

theorem answerCntOrRaise_eq (s : State) (x : Except Error Nat) :
    answerCntOrRaise s x = .next (s.respond (cntOrErrorResponse s.req.valid x)) := by
  cases x <;> rfl

/-- What command `i` answers to the request `q` under the parameters `p`; no output port is among its inputs (R22, R33).
`exec_eq_respond` says that this is what `exec` does. -/
def commandResponse (i : Instr) (p : Params) (q : Request p.W) : Response p.W :=
  match i with
  | .and => setResponse q.valid (bpeAnd q.a q.b)
  | .or => setResponse q.valid (bpeOr q.a q.b)
  | .xor => setResponse q.valid (bpeXor q.a q.b)
  | .not => setResponse q.valid (bpeNot q.a)
  | .shl n => setResponse q.valid (bpeShiftLeft q.a n)
  | .shr n => setResponse q.valid (bpeShiftRight p.shrWin q.a n)
  | .rotl n => setResponse q.valid (bpeRotateLeft p.rotlWin q.a n)
  | .rotr n => setResponse q.valid (bpeRotateRight p.rotrWin q.a n)
  | .clear => setResponse q.valid (bpeClear q.a q.b)
  | .set => setResponse q.valid (bpeSet q.a q.b)
  | .toggle => setResponse q.valid (bpeToggle q.a q.b)
  | .extract st len => setOrErrorResponse q.valid (bpeExtract q.a st len)
  | .clz => cntResponse q.valid (bpeCountLeadingZeros q.a)
  | .ctz => cntResponse q.valid (bpeCountTrailingZeros q.a)
  | .union => setResponse q.valid (saoUnion q.a q.b)
  | .inter => setResponse q.valid (saoIntersection q.a q.b)
  | .diff => setResponse q.valid (saoDifference q.a q.b)
  | .symdiff => setResponse q.valid (saoSymmetricDifference q.a q.b)
  | .compl => setResponse q.valid (saoComplement q.a)
  | .issub => flagResponse q.valid (saoIsSubset q.a q.b)
  | .issuper => flagResponse q.valid (saoIsSuperset q.a q.b)
  | .card => cntResponse q.valid (saoCardinality q.a)
  | .isempty => flagResponse q.valid (saoIsEmpty q.a)
  | .min => cntOrErrorResponse q.valid (saoMin q.a)
  | .max => cntOrErrorResponse q.valid (saoMax q.a)
  | .shlunion n => setResponse q.valid (saoShiftLeftUnion q.a q.b n)
  | .shrinter n => setResponse q.valid (saoShiftRightIntersection p.shrWin q.a q.b n)
  | .rotldiff n => setResponse q.valid (saoRotateLeftDifference p.rotlWin q.a q.b n)
  | .rotrsymdiff n => setResponse q.valid (saoRotateRightSymmetricDifference p.rotrWin q.a q.b n)
  | .clrelem => setResponse q.valid (saoClearElements q.a q.b)
  | .setelem => setResponse q.valid (saoSetElements q.a q.b)
  | .tglelem => setResponse q.valid (saoToggleElements q.a q.b)
  | .extsub st len => setOrErrorResponse q.valid (saoExtractSubset q.a st len)
  | .sclz => cntResponse q.valid (saoCountLeadingZeros q.a)
  | .sctz => cntResponse q.valid (saoCountTrailingZeros q.a)

/-- Everything a command does: it drives the response ports with `commandResponse` and leaves the rest (R17, R245). -/
theorem exec_eq_respond (i : Instr) (s : State) :
    exec i s = .next (s.respond (commandResponse i s.params s.req)) := by
  cases i
  case extract => exact answerSetOrRaise_eq s _
  case extsub => exact answerSetOrRaise_eq s _
  case min => exact answerCntOrRaise_eq s _
  case max => exact answerCntOrRaise_eq s _
  all_goals rfl

/-- No command looks at `TRACE_EN` (R9). -/
theorem commandResponse_traceEn (i : Instr) (p : Params) (q : Request p.W) (e : Bool) :
    commandResponse i { p with traceEn := e } q = commandResponse i p q := by
  cases i <;> rfl

/-! ## The form of a command's response -/

/-- The responses a command of kind `k` can give: its result on the port of the kind, a count being at most the width, or
an error (R24, R26, R27, R246). -/
inductive IsAnswer (valid : Bool) : Kind → Response w → Prop
  | set (v : SetWord w) : IsAnswer valid .set (setResponse valid v)
  | cnt (n : Nat) (h : n ≤ w) : IsAnswer valid .cnt (cntResponse valid n)
  | bool (f : Bool) : IsAnswer valid .bool (flagResponse valid f)
  | error (k : Kind) (e : Error) : IsAnswer valid k (errorResponse valid e)

theorem isAnswer_setOrErrorResponse (valid : Bool) (x : Except Error (SetWord w)) :
    IsAnswer valid .set (setOrErrorResponse valid x) := by
  cases x with
  | ok v => exact .set v
  | error e => exact .error _ e

theorem isAnswer_cntOrErrorResponse (valid : Bool) (x : Except Error Nat) (h : ∀ n, x = .ok n → n ≤ w) :
    IsAnswer valid .cnt (cntOrErrorResponse valid x : Response w) := by
  cases x with
  | ok n => exact .cnt n (h n rfl)
  | error e => exact .error _ e

theorem le_of_saoMin_eq_ok {a : SetWord w} {n : Nat} (h : saoMin a = .ok n) : n ≤ w := by
  unfold saoMin at h
  split at h
  · cases h
  next ha => cases h; exact (lsb_spec ha).1.le

theorem le_of_saoMax_eq_ok {a : SetWord w} {n : Nat} (h : saoMax a = .ok n) : n ≤ w := by
  unfold saoMax at h
  split at h
  · cases h
  next ha => cases h; exact (msb_spec ha).1.le

/-- Every command answers in the form of its kind (R26). -/
theorem isAnswer_commandResponse (i : Instr) (p : Params) (q : Request p.W) :
    IsAnswer q.valid i.kind (commandResponse i p q) := by
  cases i with
  | clz | sclz => exact .cnt _ (bpeCountLeadingZeros_le q.a)
  | ctz | sctz => exact .cnt _ (bpeCountTrailingZeros_le q.a)
  | card => exact .cnt _ (popcount_le q.a)
  | min => exact isAnswer_cntOrErrorResponse _ _ fun _ => le_of_saoMin_eq_ok
  | max => exact isAnswer_cntOrErrorResponse _ _ fun _ => le_of_saoMax_eq_ok
  | issub | issuper | isempty => exact .bool _
  | extract | extsub => exact isAnswer_setOrErrorResponse _ _
  | and | or | xor | not | shl | shr | rotl | rotr | clear | set | toggle => exact .set _
  | union | inter | diff | symdiff | compl => exact .set _
  | shlunion | shrinter | rotldiff | rotrsymdiff | clrelem | setelem | tglelem => exact .set _

theorem IsAnswer.valid_eq {valid : Bool} {k : Kind} {r : Response w} (h : IsAnswer valid k r) : r.valid = valid := by
  cases h <;> rfl

theorem responseConsistent_errorResponse (e : Error) : ResponseConsistent (errorResponse true e : Response w) := by
  simp [ResponseConsistent]

theorem responseConsistent_idleResponse : ResponseConsistent (idleResponse : Response w) := by
  simp [ResponseConsistent, idleResponse, errOk]

/-- A count of at most `w` stays so on the 16 wires of `rcnt`, whatever `w` is. -/
theorem responseConsistent_cntResponse {n : Nat} (h : n ≤ w) : ResponseConsistent (cntResponse true n : Response w) := by
  have hmod : n % 2 ^ 16 ≤ w := (Nat.mod_le n _).trans h
  simpa [ResponseConsistent] using hmod

/-- The answer to a request is one the block can drive. -/
theorem IsAnswer.responseConsistent {k : Kind} {r : Response w} (h : IsAnswer true k r) : ResponseConsistent r := by
  cases h with
  | set v => simp [ResponseConsistent]
  | cnt n hn => exact responseConsistent_cntResponse hn
  | bool f => simp [ResponseConsistent]
  | error _ e => exact responseConsistent_errorResponse e

/-! ## The step as a function of the parameters and the request -/

/-- The command that a request asks for: none without a request and none for an illegal word (R28, R70). -/
def requestedCommand (q : Request w) : Option Instr := if q.valid then (decode q.cmd).toOption else none

/-- The response under the parameters `p` to the request `q` (R25, R28, R243). -/
def requestResponse (p : Params) (q : Request p.W) : Response p.W :=
  match requestedCommand q with
  | some i => commandResponse i p q
  | none => if q.valid then errorResponse true .illegalOp else idleResponse

theorem requestedCommand_of_idle {q : Request w} (hv : q.valid = false) : requestedCommand q = none := by
  simp [requestedCommand, hv]

theorem requestedCommand_of_error {q : Request w} {e : DecodeError} (hd : decode q.cmd = .error e) :
    requestedCommand q = none := by
  simp [requestedCommand, hd, Except.toOption]

theorem requestedCommand_of_ok {q : Request w} {i : Instr} (hv : q.valid = true) (hd : decode q.cmd = .ok i) :
    requestedCommand q = some i := by
  simp [requestedCommand, hv, hd, Except.toOption]

theorem valid_of_requestedCommand {q : Request w} {i : Instr} (h : requestedCommand q = some i) : q.valid = true := by
  by_contra hv
  simp [requestedCommand, hv] at h

theorem requestResponse_of_some {p : Params} {q : Request p.W} {i : Instr} (h : requestedCommand q = some i) :
    requestResponse p q = commandResponse i p q := by
  simp only [requestResponse, h]

theorem requestResponse_of_none {p : Params} {q : Request p.W} (h : requestedCommand q = none) :
    requestResponse p q = if q.valid then errorResponse true .illegalOp else idleResponse := by
  simp only [requestResponse, h]

/-- With legal parameters a step drives the response to its request and then the trace ports (R25, R28, R70). -/
theorem step_of_legal {s : State} (hl : s.params.Legal) :
    step s = .next ((s.respond (requestResponse s.params s.req)).driveTrace (requestedCommand s.req)) := by
  obtain ⟨hn, -⟩ | ⟨-, hv, hs⟩ | ⟨-, hv, ⟨e, hd⟩, hs⟩ | ⟨-, hv, i, hd, hs⟩ := step_cases s
  · exact absurd hl hn
  · have hc := requestedCommand_of_idle hv
    rw [hs, requestResponse_of_none hc, hc, hv]
    rfl
  · have hc := requestedCommand_of_error hd
    rw [hs, requestResponse_of_none hc, hc, hv]
    rfl
  · have hc := requestedCommand_of_ok hv hd
    rw [hs, exec_eq_respond, requestResponse_of_some hc, hc]
    rfl

/-- A parameter set outside the bounds is refused (R272, log 5). -/
theorem step_of_not_legal {s : State} (hl : ¬ s.params.Legal) : step s = .refused .illegalParameters := by
  obtain ⟨-, hs⟩ | ⟨h, -⟩ | ⟨h, -⟩ | ⟨h, -⟩ := step_cases s
  · exact hs
  all_goals exact absurd h hl

/-- `rsp_valid` is `req_valid` (R24). -/
@[simp] theorem requestResponse_valid (p : Params) (q : Request p.W) : (requestResponse p q).valid = q.valid := by
  cases h : requestedCommand q with
  | some i => rw [requestResponse_of_some h, (isAnswer_commandResponse i p q).valid_eq]
  | none => rw [requestResponse_of_none h]; cases q.valid <;> rfl

/-- The response does not depend on `TRACE_EN` (R9). -/
theorem requestResponse_traceEn (p : Params) (q : Request p.W) (e : Bool) :
    requestResponse { p with traceEn := e } q = requestResponse p q := by
  cases h : requestedCommand q with
  | some i => rw [requestResponse_of_some h, ← commandResponse_traceEn i p q e]; exact requestResponse_of_some h
  | none => rw [requestResponse_of_none h]; exact requestResponse_of_none h

/-! ## The invariant of the ports -/

/-- Every response to a request, and the idle one, is one the block can drive (R24, R27, R28, R246). -/
theorem responseConsistent_requestResponse (p : Params) (q : Request p.W) :
    ResponseConsistent (requestResponse p q) := by
  cases h : requestedCommand q with
  | some i =>
    have ha := isAnswer_commandResponse i p q
    rw [valid_of_requestedCommand h] at ha
    rw [requestResponse_of_some h]
    exact ha.responseConsistent
  | none =>
    rw [requestResponse_of_none h]
    split
    · exact responseConsistent_errorResponse _
    · exact responseConsistent_idleResponse

/-- Without a command there is no successful response. -/
theorem requestResponse_err_ne_zero {p : Params} {q : Request p.W} (h : requestedCommand q = none)
    (hv : q.valid = true) : (requestResponse p q).err ≠ 0 := by
  rw [requestResponse_of_none h, if_pos hv, errorResponse_err]
  exact errCode_ne_zero _

/-- Trace ports without a record belong to a response that is idle or failed. -/
theorem traceConsistent_quietTrace {r : Response w} (h : r.valid = true → r.err ≠ 0) :
    TraceConsistent (quietTrace r) r := by
  simpa [TraceConsistent, quietTrace] using h

/-- The trace ports belong to the response they are driven beside, if it is the request's and there is a command wherever
it is successful (R256). -/
theorem traceConsistent_tracePorts {i? : Option Instr} {q : Request w} {r : Response w} (hv : r.valid = q.valid)
    (hn : i? = none → q.valid = true → r.err ≠ 0) : TraceConsistent (tracePorts i? q r) r := by
  cases i? with
  | none => exact traceConsistent_quietTrace fun h => hn rfl (hv ▸ h)
  | some i =>
    by_cases hc : (q.valid && r.err == errOk) = true
    · rw [tracePorts, if_pos hc]
      simpa [TraceConsistent, hv, errOk] using hc
    · rw [tracePorts, if_neg hc]
      exact traceConsistent_quietTrace fun h he => hc (by simp [← hv, h, he, errOk])

/-- Trace ports are there exactly with `TRACE_EN` (R9). -/
theorem driveTrace_trc_isSome (s : State) (i? : Option Instr) : (s.driveTrace i?).trc.isSome = s.params.traceEn := by
  rw [State.driveTrace_trc]
  cases s.params.traceEn <;> rfl

/-- Driving the trace ports beside a consistent response makes all ports consistent. -/
theorem portsConsistent_driveTrace {s : State} {i? : Option Instr} (hl : s.params.Legal)
    (hr : ResponseConsistent s.rsp) (hv : s.rsp.valid = s.req.valid)
    (hn : i? = none → s.req.valid = true → s.rsp.err ≠ 0) : PortsConsistent (s.driveTrace i?) := by
  refine ⟨hl, hr, driveTrace_trc_isSome s i?, fun p hp => ?_⟩
  rw [State.driveTrace_trc] at hp
  split at hp
  · cases hp; exact traceConsistent_tracePorts hv hn
  · cases hp

/-! ## The obligations -/

/-- Settles O11: the ports after a step are a function of the parameters and the request, which makes them consistent. -/
theorem stepKeepsPortsConsistent : Obligations.StepKeepsPortsConsistent := by
  rintro s t ⟨hl, -⟩ hs
  rw [step_of_legal hl] at hs
  cases hs
  exact portsConsistent_driveTrace hl (responseConsistent_requestResponse _ _) (requestResponse_valid _ _)
    requestResponse_err_ne_zero

/-- A block with trace ports, idle so far, whose caller now presents `UNION 10, 12`. -/
def unionAfterIdle : State :=
  { params := { Params.consistent 8 with traceEn := true }
    req := { valid := true, cmd := encode .union, a := 10, b := 12 }
    rsp := idleResponse
    trc := some (quietTrace idleResponse) }

/-- A witness for the hypotheses of O11 in which trace ports are present, and a step from it that leaves a record. -/
theorem unionAfterIdle_witness : PortsConsistent unionAfterIdle ∧
    ∃ t, step unionAfterIdle = .next t ∧ ∃ p, t.trc = some p ∧ p.valid = true ∧ p.rset.toNat = 14 := by
  have hlegal : unionAfterIdle.params.Legal := by decide
  refine ⟨⟨hlegal, responseConsistent_idleResponse, rfl, fun p hp => ?_⟩, _, step_of_legal hlegal, _, rfl, ?_⟩
  · cases hp
    exact traceConsistent_quietTrace fun hv => Bool.noConfusion hv
  · decide

/-- Settles O5, from the step in closed form. -/
theorem stepCompletesAndDrivesOutputsOnly : Obligations.StepCompletesAndDrivesOutputsOnly := fun _ hl =>
  ⟨_, _, step_of_legal hl, requestResponse_valid _ _⟩

/-- Settles O6, from the command in closed form. -/
theorem everyCommandCompletes : Obligations.EveryCommandCompletes := fun i s =>
  ⟨_, exec_eq_respond i s, (isAnswer_commandResponse i s.params s.req).valid_eq⟩

/-- Settles O7: neither the response to a request nor the refusal of a parameter set looks at the output ports. -/
theorem responseIndependentOfHistory : Obligations.ResponseIndependentOfHistory := by
  intro s r tr
  by_cases hl : s.params.Legal
  · rw [step_of_legal hl]
    exact step_of_legal (s := { s with rsp := r, trc := tr }) hl
  · rw [step_of_not_legal hl]
    exact step_of_not_legal (s := { s with rsp := r, trc := tr }) hl

/-- Settles O41: the two instances drive the same response by `requestResponse_traceEn`. -/
theorem traceEnableIsNotFunctional : Obligations.TraceEnableIsNotFunctional := by
  refine ⟨rfl, fun s e hl => ?_⟩
  have hs := step_of_legal
    (s := { params := { s.params with traceEn := e }, req := s.req, rsp := s.rsp, trc := s.trc }) hl
  rw [requestResponse_traceEn] at hs
  exact ⟨_, _, _, step_of_legal hl, hs, driveTrace_trc_isSome _ _, driveTrace_trc_isSome _ _⟩

/-- Settles O1: reset is idle, and the idle outputs are the ones it has already. -/
theorem resetIsIdleDefaultInstance : Obligations.ResetIsIdleDefaultInstance := by
  have hlegal : State.reset.params.Legal := by decide
  exact ⟨rfl, rfl, rfl, rfl, step_of_legal hlegal⟩

/-- Settles O10: reset shows the idle response beside the trace ports that belong to it. -/
theorem resetPortsConsistent : Obligations.ResetPortsConsistent := by
  have hlegal : State.reset.params.Legal := by decide
  exact portsConsistent_driveTrace (s := State.reset) (i? := none) hlegal responseConsistent_idleResponse rfl
    fun _ hv => Bool.noConfusion hv

end Sys2Proof.Machine

/-! # The result ports of a transaction, the idle block and the decoded step (O36, O51, O2, O4) -/

namespace Sys2Proof.Machine

variable {w : Nat}

/-! ## The result kind as a function of the opcode -/

/-- The opcodes of result kind CNT (R26, R66). -/
def cntOpcodes : List (BitVec 6) := [0x0C#6, 0x0D#6, 0x27#6, 0x29#6, 0x2A#6, 0x33#6, 0x34#6]

/-- The opcodes of result kind BOOL (R26, R66). -/
def boolOpcodes : List (BitVec 6) := [0x25#6, 0x26#6, 0x28#6]

/-- The result kind by the opcode alone. A reserved opcode falls under SET: its transaction fails, which is an answer of
every kind. `kindOfOpcode_opcode` says that this is `Instr.kind`. -/
def kindOfOpcode (o : BitVec 6) : Kind :=
  if o ∈ cntOpcodes then .cnt else if o ∈ boolOpcodes then .bool else .set

@[simp] theorem kindOfOpcode_opcode (i : Instr) : kindOfOpcode i.opcode = i.kind := by
  cases i <;> rfl

theorem notMem_boolOpcodes_of_mem_cntOpcodes : ∀ o ∈ cntOpcodes, o ∉ boolOpcodes := by decide

theorem kindOfOpcode_eq_cnt_iff (o : BitVec 6) : kindOfOpcode o = .cnt ↔ o ∈ cntOpcodes := by
  unfold kindOfOpcode
  split_ifs <;> simp_all

theorem kindOfOpcode_eq_bool_iff (o : BitVec 6) : kindOfOpcode o = .bool ↔ o ∈ boolOpcodes := by
  unfold kindOfOpcode
  split_ifs with hc hb
  · simp [notMem_boolOpcodes_of_mem_cntOpcodes o hc]
  · simp [hb]
  · simp [hb]

theorem kindOfOpcode_eq_set_iff (o : BitVec 6) : kindOfOpcode o = .set ↔ o ∉ cntOpcodes ++ boolOpcodes := by
  rw [List.mem_append, ← kindOfOpcode_eq_cnt_iff, ← kindOfOpcode_eq_bool_iff]
  cases kindOfOpcode o <;> simp

/-- The opcode of a word as a number, looked up in a list of opcodes as numbers (R61). -/
theorem opcodeNumber_mem_iff (c : CmdWord) (l : List (BitVec 6)) :
    c.toNat % 2 ^ 6 ∈ l.map BitVec.toNat ↔ cmdOpc c ∈ l := by
  rw [← cmdOpc_toNat]
  exact List.mem_map_of_injective fun _ _ => BitVec.eq_of_toNat_eq

@[simp] theorem cmdOpc_encode (i : Instr) : cmdOpc (encode i) = i.opcode :=
  (fields_of_cmdOfFields _ _ _ _).1

/-! ## What a word decodes to -/

/-- A decoded command is the row of the word's opcode, with the word's fields as counts (R66, R70). -/
theorem instrOfOpcode_of_decode {c : CmdWord} {i : Instr} (h : decode c = .ok i) :
    instrOfOpcode (cmdOpc c).toNat (cmdN1 c).toNat (cmdN2 c).toNat = some i := by
  unfold decode at h
  split at h
  · cases h
  · split at h
    next hj => cases h; exact hj
    · cases h

theorem cmdOpc_of_decode {c : CmdWord} {i : Instr} (h : decode c = .ok i) : cmdOpc c = i.opcode := by
  obtain ⟨hopc, -, -⟩ := instrOfOpcode_some (instrOfOpcode_of_decode h)
  exact BitVec.eq_of_toNat_eq hopc.symm

/-- The converse of `wellFormed_counts`. -/
theorem wellFormed_of_counts {i : Instr} (h₁ : i.count1 ≤ 65535) (h₂ : i.count2 ≤ 65535) : i.wellFormed = true := by
  cases i <;> simp_all [Instr.wellFormed, Instr.count1, Instr.count2]

/-- The decoder answers well-formed commands only: a count it reads is a 16-bit field (R61, R63). -/
theorem wellFormed_of_decode {c : CmdWord} {i : Instr} (h : decode c = .ok i) : i.wellFormed = true := by
  obtain ⟨-, h₁, h₂⟩ := instrOfOpcode_some (instrOfOpcode_of_decode h)
  have hn₁ := (cmdN1 c).isLt
  have hn₂ := (cmdN2 c).isLt
  refine wellFormed_of_counts ?_ ?_
  · rw [h₁]; split <;> omega
  · rw [h₂]; split <;> omega

/-- A step with a request whose word is a command performs that command and then drives the trace ports (R70). -/
theorem step_of_decode {s : State} {i : Instr} (hl : s.params.Legal) (hv : s.req.valid = true)
    (hd : decode s.req.cmd = .ok i) : step s = traced (some i) (exec i s) := by
  rw [step_of_legal hl, exec_eq_respond, requestResponse_of_some (requestedCommand_of_ok hv hd),
    requestedCommand_of_ok hv hd]
  rfl

/-! ## The result ports of an answer -/

theorem IsAnswer.rcnt_eq_zero {valid : Bool} {k : Kind} {r : Response w} (h : IsAnswer valid k r) (hk : k ≠ .cnt) :
    r.rcnt = 0 := by
  cases h with
  | cnt => exact absurd rfl hk
  | set | bool | error => rfl

theorem IsAnswer.rflag_eq_false {valid : Bool} {k : Kind} {r : Response w} (h : IsAnswer valid k r)
    (hk : k ≠ .bool) : r.rflag = false := by
  cases h with
  | bool => exact absurd rfl hk
  | set | cnt | error => rfl

theorem IsAnswer.rset_eq_zero {valid : Bool} {k : Kind} {r : Response w} (h : IsAnswer valid k r) (hk : k ≠ .set) :
    r.rset = 0 := by
  cases h with
  | set => exact absurd rfl hk
  | cnt | bool | error => rfl

/-- Every transaction, the one of an illegal word too, answers in the form of the kind of its opcode (R26, R27, R243). -/
theorem isAnswer_requestResponse (p : Params) {q : Request p.W} (hv : q.valid = true) :
    IsAnswer true (kindOfOpcode (cmdOpc q.cmd)) (requestResponse p q) := by
  cases hd : decode q.cmd with
  | ok i =>
    rw [requestResponse_of_some (requestedCommand_of_ok hv hd), cmdOpc_of_decode hd, kindOfOpcode_opcode, ← hv]
    exact isAnswer_commandResponse i p q
  | error e =>
    rw [requestResponse_of_none (requestedCommand_of_error hd), if_pos hv]
    exact .error _ _

/-! ## The result of a script line -/

section
variable {i : Instr} {r : Response w}

theorem lineResult_of_err_ne_zero (he : r.err ≠ 0) : lineResult i r = none := if_neg he

theorem lineResult_of_kind_set (he : r.err = 0) (hk : i.kind = .set) : lineResult i r = some (.set r.rset) := by
  rw [lineResult, if_pos (show r.err = errOk from he), hk]

theorem lineResult_of_kind_cnt (he : r.err = 0) (hk : i.kind = .cnt) : lineResult i r = some (.cnt r.rcnt) := by
  rw [lineResult, if_pos (show r.err = errOk from he), hk]

theorem lineResult_of_kind_bool (he : r.err = 0) (hk : i.kind = .bool) : lineResult i r = some (.flag r.rflag) := by
  rw [lineResult, if_pos (show r.err = errOk from he), hk]

end

/-- The transaction of a script line answers in the form of the kind of the line's command (R26, R71). -/
theorem isAnswer_lineRequest (p : Params) (l : ScriptLine p.W) :
    IsAnswer true l.instr.kind (requestResponse p (lineRequest l)) := by
  have h := isAnswer_requestResponse p (q := lineRequest l) rfl
  rwa [lineRequest, cmdOpc_encode, kindOfOpcode_opcode] at h

/-! ## The obligations -/

/-- Settles O36: the answer has the form of the kind of its opcode, and a failed one carries no result. -/
theorem unnamedResultPortsCarryZero : Obligations.UnnamedResultPortsCarryZero := by
  intro s hl hv
  have ha := isAnswer_requestResponse s.params hv
  obtain ⟨hfail, -⟩ := responseConsistent_requestResponse s.params s.req
  have hmem := opcodeNumber_mem_iff s.req.cmd
  refine ⟨_, _, step_of_legal hl, fun h => ha.rcnt_eq_zero ?_, fun h => ha.rflag_eq_false ?_,
    fun h => ha.rset_eq_zero ?_, hfail⟩
  · rw [Ne, kindOfOpcode_eq_cnt_iff, ← hmem]
    exact h
  · rw [Ne, kindOfOpcode_eq_bool_iff, ← hmem]
    exact h
  · rw [Ne, kindOfOpcode_eq_set_iff, not_not, ← hmem]
    exact h

/-- Settles O51: the line's opcode is the one of its word, and its kind names the port of the result. The size of the counts
plays no part, since it does not touch the opcode field. -/
theorem scriptLineResultIsThePortOfItsKind : Obligations.ScriptLineResultIsThePortOfItsKind := by
  intro s l hl _
  have ha := isAnswer_lineRequest s.params l
  refine ⟨_, _, step_of_legal (s := { s with req := lineRequest l }) hl, lineResult_of_err_ne_zero,
    fun he => ⟨fun ho => ?_, fun ho => ?_, fun ho => ?_⟩⟩
  · have hk : l.instr.kind = .cnt := (kindOfOpcode_opcode _).symm.trans ((kindOfOpcode_eq_cnt_iff _).2 ho)
    exact ⟨lineResult_of_kind_cnt he hk, ha.rset_eq_zero (by simp [hk]), ha.rflag_eq_false (by simp [hk])⟩
  · have hk : l.instr.kind = .bool := (kindOfOpcode_opcode _).symm.trans ((kindOfOpcode_eq_bool_iff _).2 ho)
    exact ⟨lineResult_of_kind_bool he hk, ha.rset_eq_zero (by simp [hk]), ha.rcnt_eq_zero (by simp [hk])⟩
  · have hk : l.instr.kind = .set := (kindOfOpcode_opcode _).symm.trans ((kindOfOpcode_eq_set_iff _).2 ho)
    exact ⟨lineResult_of_kind_set he hk, ha.rcnt_eq_zero (by simp [hk]), ha.rflag_eq_false (by simp [hk])⟩

/-- Settles O2: without a request there is no command, so the response is the idle one and the trace ports show it. -/
theorem idleDrivesZeroOnEveryOutput : Obligations.IdleDrivesZeroOnEveryOutput := by
  intro s hl hv
  have hc := requestedCommand_of_idle hv
  have hr : requestResponse s.params s.req = idleResponse := by rw [requestResponse_of_none hc, hv]; rfl
  rw [step_of_legal hl, hc, hr]
  rfl

/-- Settles O4: the step is the decoded command and then the trace ports. -/
theorem stepRunsDecodedInstruction : Obligations.StepRunsDecodedInstruction := by
  intro s t i hl hv hd hx
  refine ⟨wellFormed_of_decode hd, ?_⟩
  rw [step_of_decode hl hv hd, hx]
  rfl

end Sys2Proof.Machine

/-! # Repeated transactions and stored bytes (O8, O50) -/

namespace Sys2Proof.Machine

variable {n : Nat}

/-- A step changes the response and trace ports at most (R17, R22). -/
theorem eq_outputs_of_step {s t : State} (h : step s = .next t) :
    ∃ (r : Response s.params.W) (tr : Option (TracePort s.params.W)), t = { s with rsp := r, trc := tr } := by
  by_cases hl : s.params.Legal
  · obtain ⟨r, tr, hs, -⟩ := stepCompletesAndDrivesOutputsOnly s hl
    rw [hs] at h
    cases h
    exact ⟨r, tr, rfl⟩
  · rw [step_of_not_legal hl] at h
    cases h

/-! ## The bytes of a value in byte-addressed storage (R42) -/

theorem byteLane_toNat (v : BitVec n) (k : Nat) : (byteLane v k).toNat = v.toNat / 2 ^ (8 * k) % 2 ^ 8 := by
  rw [byteLane, BitVec.extractLsb'_toNat, Nat.shiftRight_eq_div_pow]

theorem byteLane_getLsbD (v : BitVec n) (k : Nat) {j : Nat} (hj : j < 8) :
    (byteLane v k).getLsbD j = v.getLsbD (8 * k + j) := by
  simp [byteLane, hj]

theorem storedCells_map_snd (address : Nat) (v : BitVec n) :
    (storedCells address v).map Prod.snd = (List.range ((n + 7) / 8)).map (byteLane v) := by
  simp [storedCells, Function.comp_def]

theorem storedCells_getElem? (address : Nat) (v : BitVec n) {k : Nat} (hk : k < (n + 7) / 8) :
    (storedCells address v)[k]? = some (address + k, byteLane v k) := by
  simp [storedCells, hk]

/-- Bytes placed above `l` weigh `2 ^ 8` more for each byte of `l`. -/
theorem numberOfBytes_append (l m : List (BitVec 8)) :
    numberOfBytes (l ++ m) = numberOfBytes l + 2 ^ (8 * l.length) * numberOfBytes m := by
  induction l with
  | nil => simp [numberOfBytes]
  | cons b l ih =>
    rw [List.cons_append, numberOfBytes, numberOfBytes, ih, List.length_cons, Nat.mul_succ, pow_add]
    ring

/-- The first `k` lanes stand for the low `8 * k` bits of the value. -/
theorem numberOfBytes_lanes (v : BitVec n) (k : Nat) :
    numberOfBytes ((List.range k).map (byteLane v)) = v.toNat % 2 ^ (8 * k) := by
  induction k with
  | zero => simp [numberOfBytes, Nat.mod_one]
  | succ k ih =>
    have hlast : numberOfBytes [byteLane v k] = v.toNat / 2 ^ (8 * k) % 2 ^ 8 := byteLane_toNat v k
    rw [List.range_succ, List.map_append, numberOfBytes_append, List.map_singleton, hlast, ih, List.length_map,
      List.length_range, Nat.mul_succ, pow_add, Nat.mod_mul]

/-! ## The obligations -/

/-- Settles O8: a step changes output ports only, and no step looks at those. -/
theorem transactionIsIdempotent : Obligations.TransactionIsIdempotent := by
  intro s t h
  obtain ⟨r, tr, rfl⟩ := eq_outputs_of_step h
  exact (responseIndependentOfHistory s r tr).trans h

/-- Settles O50: all lanes together hold every bit of the value, since `n` bits need no more than `(n + 7) / 8` bytes. -/
theorem storedBytesAreTheLanes : Obligations.StoredBytesAreTheLanes := by
  intro n address v
  refine ⟨?_, fun k hk => ⟨byteLane v k, storedCells_getElem? address v hk, fun j => byteLane_getLsbD v k⟩⟩
  have hfit : v.toNat < 2 ^ (8 * ((n + 7) / 8)) := v.isLt.trans_le (Nat.pow_le_pow_right (by decide) (by omega))
  rw [storedCells_map_snd, numberOfBytes_lanes, Nat.mod_eq_of_lt hfit]

end Sys2Proof.Machine

/-! # The encoding of commands: decoder and encoder, ignored inputs, substituted counts, pseudo-instructions
(O12, O13, O9, O14, O15, O39, O46, O47, O49, O16) -/

namespace Sys2Proof.Machine

variable {w : Nat}

/-! ## The words of a command -/

/-- A command carries 0 for each count that its format does not read (R62, R71). -/
theorem counts_eq_of_format (i : Instr) :
    i.count1 = (if i.format.readsN1 then i.count1 else 0) ∧ i.count2 = (if i.format.readsN2 then i.count2 else 0) :=
  (instrOfOpcode_some (instrOfOpcode_opcode i)).2

theorem cmdRsv_of_decode {c : CmdWord} {i : Instr} (h : decode c = .ok i) : cmdRsv c = 0#2 := by
  by_contra hr
  simp [decode, hr] at h

/-- The words that decode to a command: its opcode, `rsv = 00`, and its counts in the fields its format reads (R61, R66,
R68). What the other fields hold is left open (R64). -/
theorem decode_eq_ok_iff {c : CmdWord} {i : Instr} :
    decode c = .ok i ↔ cmdOpc c = i.opcode ∧ cmdRsv c = 0#2 ∧
      i.count1 = (if i.format.readsN1 then (cmdN1 c).toNat else 0) ∧
      i.count2 = (if i.format.readsN2 then (cmdN2 c).toNat else 0) := by
  constructor
  · intro h
    obtain ⟨-, h₁, h₂⟩ := instrOfOpcode_some (instrOfOpcode_of_decode h)
    exact ⟨cmdOpc_of_decode h, cmdRsv_of_decode h, h₁, h₂⟩
  · rintro ⟨hopc, hrsv, h₁, h₂⟩
    have hrow : instrOfOpcode (cmdOpc c).toNat (cmdN1 c).toNat (cmdN2 c).toNat = some i := by
      rw [hopc]
      exact instrOfOpcode_opcode_of_counts i _ _ (fun hr => by rw [h₁, if_pos hr]) fun hr => by rw [h₂, if_pos hr]
    simp [decode, hrsv, hrow]

/-- A word decodes exactly if `rsv = 00` and its opcode has a row (R67, R68). -/
theorem exists_decode_eq_ok_iff (c : CmdWord) :
    (∃ i, decode c = .ok i) ↔ (cmdRsv c).toNat = 0 ∧
      instrOfOpcode (cmdOpc c).toNat (cmdN1 c).toNat (cmdN2 c).toNat ≠ none := by
  constructor
  · rintro ⟨i, h⟩
    simp [cmdRsv_of_decode h, instrOfOpcode_of_decode h]
  · rintro ⟨hrsv, hrow⟩
    obtain ⟨i, hi⟩ := Option.ne_none_iff_exists'.1 hrow
    have hrsv' : cmdRsv c = 0#2 := BitVec.eq_of_toNat_eq hrsv
    exact ⟨i, by simp [decode, hrsv', hi]⟩

/-- Decoding inverts encoding: the encoding holds every count, those its format does not read being 0 (R71). -/
theorem decode_encode {i : Instr} (hi : i.wellFormed = true) : decode (encode i) = .ok i := by
  obtain ⟨hopc, hrsv, h₁, h₂⟩ := encodedFields i hi
  obtain ⟨hc₁, hc₂⟩ := counts_eq_of_format i
  exact decode_eq_ok_iff.2 ⟨hopc, hrsv, h₁.symm ▸ hc₁, h₂.symm ▸ hc₂⟩

/-- The encoding as a number (R61). -/
theorem encode_toNat {i : Instr} (hi : i.wellFormed = true) :
    (encode i).toNat = i.count2 * 2 ^ 24 + i.count1 * 2 ^ 8 + i.opcode.toNat := by
  obtain ⟨h₁, h₂⟩ := wellFormed_counts hi
  rw [encode, cmdOfFields_toNat, BitVec.toNat_ofNat, BitVec.toNat_ofNat, Nat.mod_eq_of_lt (by omega),
    Nat.mod_eq_of_lt (by omega)]
  simp

theorem readsN1_iff (f : Format) : f.readsN1 = true ↔ f = .p ∨ f = .bp ∨ f = .x := by
  cases f <;> simp [Format.readsN1]

theorem readsN2_iff (f : Format) : f.readsN2 = true ↔ f = .x := by
  cases f <;> simp [Format.readsN2]

/-! ## Ignored fields and the ignored port -/

/-- A word with the low byte of a command's word, and with the same value in each field its format reads, is a word of the
same command (R64). -/
theorem decode_eq_ok_of_agree {c c' : CmdWord} {i : Instr} (h : decode c = .ok i)
    (hlow : c'.toNat % 2 ^ 8 = c.toNat % 2 ^ 8)
    (hn₁ : i.format.readsN1 = true → c'.toNat / 2 ^ 8 % 2 ^ 16 = c.toNat / 2 ^ 8 % 2 ^ 16)
    (hn₂ : i.format.readsN2 = true → c'.toNat / 2 ^ 24 = c.toNat / 2 ^ 24) : decode c' = .ok i := by
  obtain ⟨hopc, hrsv, h₁, h₂⟩ := decode_eq_ok_iff.1 h
  have hopc' : cmdOpc c' = cmdOpc c := BitVec.eq_of_toNat_eq (by rw [cmdOpc_toNat, cmdOpc_toNat]; omega)
  have hrsv' : cmdRsv c' = cmdRsv c := BitVec.eq_of_toNat_eq (by rw [cmdRsv_toNat, cmdRsv_toNat]; omega)
  rw [cmdN1_toNat] at h₁
  rw [cmdN2_toNat] at h₂
  refine decode_eq_ok_iff.2 ⟨hopc'.trans hopc, hrsv'.trans hrsv, ?_, ?_⟩
  · rw [cmdN1_toNat, h₁]
    exact ite_congr rfl (fun hr => (hn₁ hr).symm) fun _ => rfl
  · rw [cmdN2_toNat, h₂]
    exact ite_congr rfl (fun hr => (hn₂ hr).symm) fun _ => rfl

/-- A command looks at `b` only if its format reads it, and at the word not at all (R62, R64). -/
theorem commandResponse_ignored (i : Instr) (p : Params) (q : Request p.W) (c : CmdWord) {y : SetWord p.W}
    (hb : i.format.readsB = true → y = q.b) :
    commandResponse i p { q with cmd := c, b := y } = commandResponse i p q := by
  by_cases hr : i.format.readsB = true
  · rw [hb hr]
    cases i <;> rfl
  · cases i with
    | not | compl | clz | ctz | sclz | sctz | card | isempty | min | max => rfl
    | shl | shr | rotl | rotr | extract | extsub => rfl
    | and | or | xor | clear | set | toggle | union | inter | diff | symdiff => exact absurd rfl hr
    | issub | issuper | clrelem | setelem | tglelem => exact absurd rfl hr
    | shlunion | shrinter | rotldiff | rotrsymdiff => exact absurd rfl hr

/-- The trace ports under the parameters `p` beside the response to the request `q` (R9, R256). -/
def requestTrace (p : Params) (q : Request p.W) : Option (TracePort p.W) :=
  if p.traceEn then some (tracePorts (requestedCommand q) q (requestResponse p q)) else none

theorem step_eq_outputs {s : State} (hl : s.params.Legal) :
    step s = .next { s with rsp := requestResponse s.params s.req, trc := requestTrace s.params s.req } :=
  step_of_legal hl

section
variable {p : Params} {q : Request p.W} {c : CmdWord} {y : SetWord p.W} {i : Instr}

/-- Requests that differ in what their command ignores have the same response (R64). -/
theorem requestResponse_ignored (hv : q.valid = true) (h : decode q.cmd = .ok i) (h' : decode c = .ok i)
    (hb : i.format.readsB = true → y = q.b) :
    requestResponse p { q with cmd := c, b := y } = requestResponse p q := by
  rw [requestResponse_of_some (requestedCommand_of_ok hv h),
    requestResponse_of_some (q := { q with cmd := c, b := y }) (requestedCommand_of_ok hv h'),
    commandResponse_ignored i p q c hb]

/-- Requests that differ in what their command ignores leave the same trace: the record shows the encoding of the command,
and `b` only if it is read (R64, R256). -/
theorem requestTrace_ignored (hv : q.valid = true) (h : decode q.cmd = .ok i) (h' : decode c = .ok i)
    (hb : i.format.readsB = true → y = q.b) :
    requestTrace p { q with cmd := c, b := y } = requestTrace p q := by
  have hcmd : tracedCmd i.format { q with cmd := c, b := y } = tracedCmd i.format q :=
    (tracedCmd_eq_encode { q with cmd := c, b := y } i h').trans (tracedCmd_eq_encode q i h).symm
  have hport : tracedB i.format { q with cmd := c, b := y } = tracedB i.format q :=
    ite_congr rfl hb fun _ => rfl
  simp only [requestTrace, requestResponse_ignored hv h h' hb, requestedCommand_of_ok hv h,
    requestedCommand_of_ok (q := { q with cmd := c, b := y }) hv h', tracePorts, hcmd, hport]

end

/-! ## Counts that no field can carry -/

theorem exec_eq_exec {i j : Instr} {s : State}
    (h : commandResponse i s.params s.req = commandResponse j s.params s.req) : exec i s = exec j s := by
  rw [exec_eq_respond, exec_eq_respond, h]

theorem bpeShiftLeft_of_le (a : SetWord w) {n : Nat} (h : w ≤ n) : bpeShiftLeft a n = 0#w := if_pos h

theorem bpeShiftRight_of_le {r : Nat} (a : SetWord w) {n : Nat} (h : r ≤ n) : bpeShiftRight r a n = 0#w := if_pos h

theorem bpeRotateLeft_mod (r : Nat) (a : SetWord w) (n : Nat) : bpeRotateLeft r a (n % r) = bpeRotateLeft r a n := by
  simp only [bpeRotateLeft, Nat.mod_mod]

theorem bpeRotateRight_mod (r : Nat) (a : SetWord w) (n : Nat) :
    bpeRotateRight r a (n % r) = bpeRotateRight r a n := by
  simp only [bpeRotateRight, Nat.mod_mod]

theorem bpeExtract_of_lt (a : SetWord w) {st len : Nat} (h : w < st + len) :
    bpeExtract a st len = .error .invalidRange := if_pos h

/-- All ranges that leave the universe fail alike (R141, R197). -/
theorem exec_extract_of_lt {s : State} {st len st' len' : Nat} (h : s.params.W < st + len)
    (h' : s.params.W < st' + len') :
    exec (.extract st len) s = exec (.extract st' len') s ∧ exec (.extsub st len) s = exec (.extsub st' len') s := by
  have he : bpeExtract s.req.a st len = bpeExtract s.req.a st' len' := by
    rw [bpeExtract_of_lt _ h, bpeExtract_of_lt _ h']
  exact ⟨exec_eq_exec (by simp only [commandResponse, he]),
    exec_eq_exec (by simp only [commandResponse, saoExtractSubset, he])⟩

theorem presentedAmount_of_le {p : Nat} (h : p ≤ 65535) : presentedAmount p = p := if_pos h

theorem presentedAmount_of_lt {p : Nat} (h : 65535 < p) : presentedAmount p = 65535 := if_neg (by omega)

theorem presentedAmount_le (p : Nat) : presentedAmount p ≤ 65535 := by
  unfold presentedAmount
  split <;> omega

/-- A start or a length above 65535, and what is presented for it, both leave the universe (R63). -/
theorem exec_extract_presentedAmount {s : State} (hl : s.params.Legal) (p q : Nat) :
    exec (.extract p q) s = exec (.extract (presentedAmount p) (presentedAmount q)) s ∧
      exec (.extsub p q) s = exec (.extsub (presentedAmount p) (presentedAmount q)) s := by
  obtain ⟨⟨-, hW⟩, -⟩ := hl
  rcases le_or_gt p 65535 with hp | hp
  · rcases le_or_gt q 65535 with hq | hq
    · rw [presentedAmount_of_le hp, presentedAmount_of_le hq]
      exact ⟨rfl, rfl⟩
    · rw [presentedAmount_of_lt hq]
      exact exec_extract_of_lt (by omega) (by omega)
  · rw [presentedAmount_of_lt hp]
    exact exec_extract_of_lt (by omega) (by omega)

theorem presentedRotate_of_le {r p : Nat} (h : p ≤ 65535) : presentedRotate r p = p := if_pos h

theorem presentedRotate_of_lt {r p : Nat} (h : 65535 < p) : presentedRotate r p = p % r := if_neg (by omega)

theorem presentedRotate_le {r : Nat} (p : Nat) (h₀ : 0 < r) (hr : r ≤ 65535) : presentedRotate r p ≤ 65535 := by
  have := Nat.mod_lt p h₀
  unfold presentedRotate
  split <;> omega

/-! ## The transaction of a command, and the pseudo-instructions -/

/-- A caller that presents the encoding of a command gets that command's response (R25, R70). -/
theorem gives_of_commandResponse {s : State} {i : Instr} {x y : SetWord s.params.W} {r : Response s.params.W}
    (hl : s.params.Legal) (hi : i.wellFormed = true)
    (hr : commandResponse i s.params { valid := true, cmd := encode i, a := x, b := y } = r) : Gives s i x y r := by
  have hc := requestedCommand_of_ok (q := { valid := true, cmd := encode i, a := x, b := y }) rfl (decode_encode hi)
  obtain rfl := (requestResponse_of_some hc).trans hr
  exact ⟨_, step_eq_outputs (s := { s with req := { valid := true, cmd := encode i, a := x, b := y } }) hl⟩

/-- The complement of the empty set is the whole universe (R72, R164). -/
theorem saoComplement_zero : saoComplement (0#w) = BitVec.ofNat w (2 ^ w - 1) := by
  have hlt : 2 ^ w - 1 < 2 ^ w := Nat.sub_lt (by positivity) one_pos
  exact BitVec.eq_of_toNat_eq (by simp [saoComplement, bpeNot, Nat.mod_eq_of_lt hlt])

/-- `1` shifted left is a single element, or nothing once that leaves the universe (R72, R110). -/
theorem bpeShiftLeft_one (n : Nat) :
    bpeShiftLeft (1#w) n = if n < w then BitVec.ofNat w (2 ^ n) else 0#w := by
  split
  next h =>
    refine BitVec.eq_of_toNat_eq ?_
    rw [bpeShiftLeft_toNat, BitVec.toNat_ofNat, Nat.one_mod_two_pow (by omega), one_mul, BitVec.toNat_ofNat]
  next h => exact bpeShiftLeft_of_le _ (by omega)

/-- A range of length 1 is the bit at its start (R72, R141). -/
theorem bpeExtract_one (a : SetWord w) {n : Nat} (h : n < w) :
    bpeExtract a n 1 = .ok (if a.getLsbD n then 1#w else 0#w) := by
  obtain ⟨hlt, -⟩ | ⟨-, v, hv, -, hbit⟩ := bpeExtract_cases a n 1
  · omega
  · rw [hv]
    congr 1
    refine eq_of_bits fun j hj => ?_
    rw [hbit j]
    by_cases hj₀ : j = 0
    · subst hj₀
      cases a.getLsbD n <;> simp [hj]
    · cases a.getLsbD n <;> simp [hj₀]

/-! ## The obligations -/

/-- Settles O12, by `decode_encode`. -/
theorem decodeEncodeRoundTrip : Obligations.DecodeEncodeRoundTrip := fun _ => decode_encode

/-- Settles O13: the word's fields are the command's own where its format reads them, and 0 in the encoding elsewhere. -/
theorem decodedWordIsEncodingUpToIgnoredFields : Obligations.DecodedWordIsEncodingUpToIgnoredFields := by
  intro c i h
  have hwf := wellFormed_of_decode h
  obtain ⟨-, hrsv, h₁, h₂⟩ := decode_eq_ok_iff.1 h
  have hlow : c.toNat / 2 ^ 6 % 2 ^ 2 = 0 := by rw [← cmdRsv_toNat, hrsv]; rfl
  simp only [readsN1_iff, cmdN1_toNat] at h₁
  simp only [readsN2_iff, cmdN2_toNat] at h₂
  refine ⟨hwf, ?_⟩
  rw [encode_toNat hwf, opcode_of_decode h, h₁, h₂, ite_mul, ite_mul, zero_mul, zero_mul]
  omega

/-- Settles O9: both words are words of the same command, whose response and trace do not show what is ignored. -/
theorem ignoredInputsHaveNoEffect : Obligations.IgnoredInputsHaveNoEffect := by
  refine ⟨fun s c y hl hv ⟨i, hd⟩ hlow hn₁ hn₂ hb => ?_, fun i hi => ?_⟩
  · obtain ⟨hreadB, hread₁, hread₂⟩ := reads_of_decode hd
    have hd' : decode c = .ok i := decode_eq_ok_of_agree hd hlow (hn₁ ∘ hread₁.1) (hn₂ ∘ hread₂.1)
    have hb' : i.format.readsB = true → y = s.req.b := hb ∘ hreadB.1
    refine ⟨_, _, step_eq_outputs hl, ?_⟩
    rw [← requestResponse_ignored hv hd hd' hb', ← requestTrace_ignored hv hd hd' hb']
    exact step_eq_outputs (s := { s with req := { s.req with cmd := c, b := y } }) hl
  · obtain ⟨-, hread₁, hread₂⟩ := reads_of_decode (decode_encode hi)
    obtain ⟨-, -, h₁, h₂⟩ := decode_eq_ok_iff.1 (decode_encode hi)
    obtain ⟨-, -, e₁, e₂⟩ := encodedFields i hi
    rw [← cmdN1_toNat, ← cmdN2_toNat, e₁, e₂, h₁, h₂, ← hread₁, ← hread₂]
    exact ⟨fun hr => if_neg hr, fun hr => if_neg hr⟩

/-- Settles O14: the fields partition the word, and a decoded command is fixed by them as `decode_eq_ok_iff` says. -/
theorem commandWordIsTheNumberOfItsFields : Obligations.CommandWordIsTheNumberOfItsFields := by
  refine ⟨fun c => ?_, fun c i h => ?_, fun i => encode_toNat⟩
  · rw [cmdN2_toNat, cmdN1_toNat, cmdRsv_toNat, cmdOpc_toNat]
    omega
  · obtain ⟨hopc, hrsv, h₁, h₂⟩ := decode_eq_ok_iff.1 h
    refine ⟨hopc.symm, hrsv, fun n hn => ?_, fun st len hx => ?_⟩
    · obtain rfl | rfl | rfl | rfl | rfl | rfl | rfl | rfl := hn <;> exact h₁
    · obtain rfl | rfl := hx <;> exact ⟨h₁, h₂⟩

/-- Settles O15: the opcodes without a row are the reserved ones. -/
theorem everyWordIsAssignedOrIllegal : Obligations.EveryWordIsAssignedOrIllegal := by
  intro c
  rw [exists_decode_eq_ok_iff, Ne, instrOfOpcode_eq_none, cmdRsv_toNat, cmdOpc_toNat]
  omega

/-- Settles O39: by O15 the word is no command, so the transaction is the one of ILLEGAL_OP. -/
theorem illegalWordRaisesIllegalOp : Obligations.IllegalWordRaisesIllegalOp := by
  intro s hl hv hill
  have hno : ¬ ∃ i, decode s.req.cmd = .ok i := by
    rw [everyWordIsAssignedOrIllegal]
    tauto
  obtain ⟨e, he⟩ : ∃ e, decode s.req.cmd = .error e := by
    cases hd : decode s.req.cmd with
    | ok i => exact absurd ⟨i, hd⟩ hno
    | error e => exact ⟨e, rfl⟩
  have hc := requestedCommand_of_error he
  rw [step_of_legal hl, requestResponse_of_none hc, hc, if_pos hv]
  rfl

/-- Settles O46: a shift by the width or more gives 0, a rotate looks at its amount modulo the window only, and a range
with a bound above the width leaves the universe. -/
theorem unpresentableCountsHaveSubstitutes : Obligations.UnpresentableCountsHaveSubstitutes := by
  rintro s p ⟨⟨-, hW⟩, -, -, -, hshr⟩ hp
  refine ⟨fun n hn => ?_, ?_⟩
  · have hleft : bpeShiftLeft s.req.a p = bpeShiftLeft s.req.a n := by
      rw [bpeShiftLeft_of_le _ (by omega), bpeShiftLeft_of_le _ hn]
    have hright : bpeShiftRight s.params.shrWin s.req.a p = bpeShiftRight s.params.shrWin s.req.a n := by
      rw [bpeShiftRight_of_le _ (by omega), bpeShiftRight_of_le _ (by omega)]
    exact ⟨exec_eq_exec (by simp only [commandResponse, hleft]), exec_eq_exec (by simp only [commandResponse, hright]),
      exec_eq_exec (by simp only [commandResponse, saoShiftLeftUnion, hleft]),
      exec_eq_exec (by simp only [commandResponse, saoShiftRightIntersection, hright])⟩
  · refine ⟨exec_eq_exec ?_, exec_eq_exec ?_, exec_eq_exec ?_, exec_eq_exec ?_, fun q => ?_⟩
    · simp only [commandResponse, bpeRotateLeft_mod]
    · simp only [commandResponse, bpeRotateRight_mod]
    · simp only [commandResponse, saoRotateLeftDifference, bpeRotateLeft_mod]
    · simp only [commandResponse, saoRotateRightSymmetricDifference, bpeRotateRight_mod]
    · have hstart : s.params.W < p + q ∧ s.params.W < 65535 + q := by omega
      have hlength : s.params.W < q + p ∧ s.params.W < q + 65535 := by omega
      obtain ⟨hx₁, hs₁⟩ := exec_extract_of_lt hstart.1 hstart.2
      obtain ⟨hx₂, hs₂⟩ := exec_extract_of_lt hlength.1 hlength.2
      exact ⟨hx₁, hx₂, hs₁, hs₂⟩

/-- Settles O47: a count that fits its field is presented as it is, and O46 gives the substitute of a greater one. -/
theorem presentedCountsFitAndAgree : Obligations.PresentedCountsFitAndAgree := by
  intro s p q hl
  have ⟨⟨_, hW⟩, ⟨hl₀, hlW⟩, ⟨hr₀, hrW⟩, _⟩ := hl
  refine ⟨presentedAmount_le p, presentedRotate_le p hl₀ (by omega), presentedRotate_le p hr₀ (by omega), ?_⟩
  obtain ⟨hx, hs⟩ := exec_extract_presentedAmount hl p q
  rcases le_or_gt p 65535 with hp | hp
  · rw [presentedRotate_of_le hp, presentedRotate_of_le hp]
    rw [presentedAmount_of_le hp] at hx hs ⊢
    exact ⟨rfl, rfl, rfl, rfl, rfl, rfl, rfl, rfl, hx, hs⟩
  · obtain ⟨hshift, hrotl, hrotr, hrotldiff, hrotrsymdiff, -⟩ := unpresentableCountsHaveSubstitutes s p hl hp
    obtain ⟨hshl, hshr, hshlunion, hshrinter⟩ := hshift 65535 (by omega)
    rw [presentedRotate_of_lt hp, presentedRotate_of_lt hp]
    rw [presentedAmount_of_lt hp] at hx hs ⊢
    exact ⟨hshl, hshr, hshlunion, hshrinter, hrotl, hrotldiff, hrotr, hrotrsymdiff, hx, hs⟩

/-- Settles O49: each expansion is one transaction, whose answer is that of its command. -/
theorem pseudoInstructionsExpand : Obligations.PseudoInstructionsExpand := by
  intro s x i hl hi
  have hshl : (Instr.shl i).wellFormed = true := decide_eq_true hi
  have hext : (Instr.extsub i 1).wellFormed = true := wellFormed_of_counts hi (show 1 ≤ 65535 by decide)
  refine ⟨rfl, gives_of_commandResponse hl rfl ?_, rfl, gives_of_commandResponse hl hshl ?_, rfl,
    fun hlt => gives_of_commandResponse hl hext ?_, fun hle => gives_of_commandResponse hl hext ?_⟩
  · exact congrArg (setResponse true) saoComplement_zero
  · exact congrArg (setResponse true) (bpeShiftLeft_one i)
  · exact congrArg (setOrErrorResponse true) (bpeExtract_one x hlt)
  · exact congrArg (setOrErrorResponse true) (bpeExtract_of_lt x (by omega))

/-- Settles O16: seven closed words, evaluated by the decoder. -/
theorem workedEncodingsDecode : Obligations.WorkedEncodingsDecode := by
  unfold Obligations.WorkedEncodingsDecode
  decide

end Sys2Proof.Machine

/-! # Bitwise logic (O17) -/

namespace Sys2Proof.Machine

variable {w : Nat}

/-- A command whose response is a set result answers with that set, in every state (R26, R27). -/
theorem setAnswer_of_commandResponse {i : Instr} {s : State} {v : SetWord s.params.W} {p : SetWord s.params.W → Prop}
    (hr : commandResponse i s.params s.req = setResponse s.req.valid v) (hv : p v) : SetAnswer i s p :=
  ⟨v, by rw [exec_eq_respond, hr]; rfl, hv⟩

theorem bpeXor_getLsbD_eq_true_iff (a b : SetWord w) (j : Nat) :
    (bpeXor a b).getLsbD j = true ↔ a.getLsbD j ≠ b.getLsbD j := by
  rw [bpeXor_getLsbD, Bool.xor_iff_ne]

theorem bpeNot_getLsbD_of_lt (a : SetWord w) {j : Nat} (hj : j < w) : (bpeNot a).getLsbD j = !a.getLsbD j := by
  rw [bpeNot_getLsbD, decide_eq_true hj, Bool.true_and]

/-- NOT as a number: the distance from the all-ones value (R103). -/
theorem bpeNot_toNat (a : SetWord w) : (bpeNot a).toNat = 2 ^ w - 1 - a.toNat := BitVec.toNat_not

/-! ## The obligation -/

/-- Settles O17: each word decodes by its low byte, and each command answers with its primitive function, whose bits
and number are known. -/
theorem bitwiseLogicBitByBit : Obligations.BitwiseLogicBitByBit := by
  refine ⟨fun c => ⟨?and, ?or, ?xor, ?not⟩, fun s => ⟨?execAnd, ?execOr, ?execXor, ?execNot⟩⟩
  case and | or | xor | not => exact fun h => decode_of_low_byte c _ _ h (by decide) rfl
  case execAnd => exact setAnswer_of_commandResponse rfl fun j _ => bpeAnd_getLsbD s.req.a s.req.b j
  case execOr => exact setAnswer_of_commandResponse rfl fun j _ => bpeOr_getLsbD s.req.a s.req.b j
  case execXor => exact setAnswer_of_commandResponse rfl fun j _ => bpeXor_getLsbD_eq_true_iff s.req.a s.req.b j
  case execNot =>
    exact setAnswer_of_commandResponse rfl ⟨bpeNot_toNat s.req.a, fun _ hj => bpeNot_getLsbD_of_lt s.req.a hj⟩

end Sys2Proof.Machine

/-! # Shifts and rotates (O18, O19, O20, O21, O43, O44, O48, O57) -/

namespace Sys2Proof.Machine

variable {w : Nat}

/-! ## The rotates as permutations of the window -/

/-- Going `k` up and then `r - k` up in a window of `r` positions is going round once. -/
theorem add_mod_add_sub_mod {r i k : Nat} (hi : i < r) (hk : k ≤ r) : ((i + k) % r + (r - k)) % r = i := by
  rw [Nat.mod_add_mod, show i + k + (r - k) = i + r by omega, Nat.add_mod_right, Nat.mod_eq_of_lt hi]

/-- The same with the two parts in the other order. -/
theorem add_sub_mod_add_mod {r j k : Nat} (hj : j < r) (hk : k ≤ r) : ((j + (r - k)) % r + k) % r = j := by
  rw [Nat.mod_add_mod, show j + (r - k) + k = j + r by omega, Nat.add_mod_right, Nat.mod_eq_of_lt hj]

/-- Going `m` down and then `n` down is going `m + n` down, each as far up as the rest of the window. -/
theorem add_sub_mod_add_sub_mod {r : Nat} (hr : 0 < r) (i m n : Nat) :
    ((i + (r - n % r)) % r + (r - m % r)) % r = (i + (r - (m + n) % r)) % r := by
  have hm := Nat.mod_lt m hr
  have hn := Nat.mod_lt n hr
  rw [Nat.mod_add_mod]
  rcases lt_or_ge (m % r + n % r) r with hlt | hge
  · rw [Nat.add_mod_of_add_mod_lt hlt, ← Nat.add_mod_right (i + (r - (m % r + n % r)))]
    congr 1
    omega
  · have hsum := Nat.add_mod_add_of_le_add_mod hge
    congr 1
    omega

/-- The rotate left moves bit `i` as R114 says. -/
theorem isRotl_bpeRotateLeft {r : Nat} (h₀ : 0 < r) (hr : r ≤ w) (n : Nat) (a : SetWord w) :
    IsRotl r n a (bpeRotateLeft r a n) := by
  refine ⟨fun i hi => ?_, fun j hj => ?_⟩
  · rw [bpeRotateLeft_getLsbD r a n _ h₀ hr, decide_eq_true (Nat.mod_lt _ h₀), Bool.true_and,
      add_mod_add_sub_mod hi (Nat.mod_lt n h₀).le]
  · rw [bpeRotateLeft_getLsbD r a n j h₀ hr, decide_eq_false (not_lt.2 hj), Bool.false_and]

/-- The rotate right fetches bit `i` as R116 says. -/
theorem isRotr_bpeRotateRight {r : Nat} (h₀ : 0 < r) (hr : r ≤ w) (n : Nat) (a : SetWord w) :
    IsRotr r n a (bpeRotateRight r a n) := by
  refine ⟨fun i hi => ?_, fun j hj => ?_⟩
  · rw [bpeRotateRight_getLsbD r a n i h₀ hr, decide_eq_true hi, Bool.true_and]
  · rw [bpeRotateRight_getLsbD r a n j h₀ hr, decide_eq_false (not_lt.2 hj), Bool.false_and]

/-- Over the whole width the operand of a rotate right is its result rotated left. -/
theorem IsRotr.isRotl_of_width {n : Nat} {a v : SetWord w} (h : IsRotr w n a v) : IsRotl w n v a :=
  ⟨fun i hi => (h.1 i hi).symm, fun j hj => BitVec.getLsbD_of_ge a j hj⟩

/-- A rotate right is a rotate left by the rest of the window (R117). -/
theorem bpeRotateRight_eq_bpeRotateLeft {r : Nat} (h₀ : 0 < r) (hr : r ≤ w) (a : SetWord w) (n : Nat) :
    bpeRotateRight r a n = bpeRotateLeft r a ((r - n % r) % r) := by
  have hn := Nat.mod_lt n h₀
  refine eq_of_bits fun j _ => ?_
  rw [bpeRotateRight_getLsbD r a n j h₀ hr, bpeRotateLeft_getLsbD r a _ j h₀ hr, Nat.mod_mod]
  congr 2
  rcases Nat.eq_zero_or_pos (n % r) with hz | hpos
  · rw [hz, Nat.sub_zero, Nat.mod_self, Nat.sub_zero, Nat.add_mod_right, Nat.add_zero]
  · rw [Nat.mod_eq_of_lt (show r - n % r < r by omega), Nat.sub_sub_self hn.le]

/-- The amounts of two rotates left add up (R117). -/
theorem bpeRotateLeft_bpeRotateLeft {r : Nat} (h₀ : 0 < r) (hr : r ≤ w) (a : SetWord w) (m n : Nat) :
    bpeRotateLeft r (bpeRotateLeft r a m) n = bpeRotateLeft r a (m + n) := by
  refine eq_of_bits fun j _ => ?_
  rw [bpeRotateLeft_getLsbD r _ n j h₀ hr, bpeRotateLeft_getLsbD r a m _ h₀ hr,
    bpeRotateLeft_getLsbD r a (m + n) j h₀ hr, decide_eq_true (Nat.mod_lt _ h₀), Bool.true_and,
    add_sub_mod_add_sub_mod h₀]

theorem bpeRotateLeft_of_mod_eq_zero {r n : Nat} (a : SetWord w) (h : n % r = 0) :
    bpeRotateLeft r a n = trunc r a := if_pos h

theorem trunc_of_lt {n : Nat} {a : SetWord w} (h : a.toNat < 2 ^ n) : trunc n a = a :=
  BitVec.eq_of_toNat_eq (by rw [trunc_toNat, Nat.mod_eq_of_lt h])

/-- A rotate right undoes the rotate left of a value that lies within the window (R117). -/
theorem bpeRotateRight_bpeRotateLeft {r : Nat} (h₀ : 0 < r) (hr : r ≤ w) {a : SetWord w} (ha : a.toNat < 2 ^ r)
    (n : Nat) : bpeRotateRight r (bpeRotateLeft r a n) n = a := by
  have hround : (n + (r - n % r) % r) % r = 0 := by
    rw [Nat.add_mod_mod, ← Nat.mod_add_mod, Nat.add_sub_cancel' (Nat.mod_lt n h₀).le, Nat.mod_self]
  rw [bpeRotateRight_eq_bpeRotateLeft h₀ hr, bpeRotateLeft_bpeRotateLeft h₀ hr,
    bpeRotateLeft_of_mod_eq_zero a hround, trunc_of_lt ha]

/-! ## Single elements -/

theorem ofNat_two_pow_getLsbD (n : Nat) {j : Nat} (hj : j < w) :
    (BitVec.ofNat w (2 ^ n)).getLsbD j = decide (n = j) := by
  rw [BitVec.getLsbD_ofNat, Nat.testBit_two_pow, decide_eq_true hj, Bool.true_and]

theorem one_getLsbD {j : Nat} (hj : j < w) : (1#w).getLsbD j = decide (0 = j) := ofNat_two_pow_getLsbD 0 hj

/-- Element 0 rotated left is the element of the amount modulo the window. -/
theorem bpeRotateLeft_one {r : Nat} (h₀ : 0 < r) (hr : r ≤ w) (n : Nat) :
    bpeRotateLeft r (1#w) n = BitVec.ofNat w (2 ^ (n % r)) := by
  have hn := Nat.mod_lt n h₀
  refine eq_of_bits fun j hj => ?_
  rw [bpeRotateLeft_getLsbD r _ n j h₀ hr, one_getLsbD ((Nat.mod_lt _ h₀).trans_le hr), ofNat_two_pow_getLsbD _ hj,
    ← Bool.decide_and, decide_eq_decide]
  constructor
  · rintro ⟨hjr, hzero⟩
    have hback := add_sub_mod_add_mod hjr hn.le
    rwa [← hzero, Nat.zero_add, Nat.mod_mod] at hback
  · rintro rfl
    exact ⟨hn, by rw [Nat.add_sub_cancel' hn.le, Nat.mod_self]⟩

/-- Element 0 rotated right is the element as far below the window's end as the amount says. -/
theorem bpeRotateRight_one {r : Nat} (h₀ : 0 < r) (hr : r ≤ w) (n : Nat) :
    bpeRotateRight r (1#w) n = BitVec.ofNat w (2 ^ ((r - n % r) % r)) := by
  rw [bpeRotateRight_eq_bpeRotateLeft h₀ hr, bpeRotateLeft_one h₀ hr, Nat.mod_mod]

/-- A shift right by 0 is the truncation to its window (R112). -/
theorem bpeShiftRight_zero (r : Nat) (a : SetWord w) : bpeShiftRight r a 0 = trunc r a :=
  BitVec.eq_of_toNat_eq (by rw [bpeShiftRight_toNat, pow_zero, Nat.div_one, trunc_toNat])

/-- Element 4 lies above a window of 4 bits. -/
theorem trunc_four_ofNat_sixteen (hw : 4 ≤ w) : trunc 4 (BitVec.ofNat w 0x10) = 0#w := by
  refine BitVec.eq_of_toNat_eq ?_
  rw [trunc_toNat, BitVec.toNat_ofNat, Nat.mod_mod_of_dvd _ (pow_dvd_pow 2 hw), BitVec.toNat_zero]
  decide

/-! ## Cardinalities -/

/-- The elements of a set (R10). -/
def elements (v : SetWord w) : Finset Nat := (Finset.range w).filter fun j => v.getLsbD j = true

theorem mem_elements {v : SetWord w} {j : Nat} : j ∈ elements v ↔ j < w ∧ v.getLsbD j = true := by
  rw [elements, Finset.mem_filter, Finset.mem_range]

theorem saoCardinality_eq_card (v : SetWord w) : saoCardinality v = (elements v).card := onesBelow_eq_card v w

/-- A rotate over the whole width moves the elements one to one. -/
theorem IsRotl.saoCardinality_eq {n : Nat} {a v : SetWord w} (h₀ : 0 < w) (h : IsRotl w n a v) :
    saoCardinality v = saoCardinality a := by
  have hn := (Nat.mod_lt n h₀).le
  obtain ⟨hbit, -⟩ := h
  rw [saoCardinality_eq_card, saoCardinality_eq_card]
  refine Finset.card_nbij' (fun j => (j + (w - n % w)) % w) (fun i => (i + n % w) % w)
    (fun j hj => ?maps) (fun i hi => ?mapsBack) (fun j hj => ?left) (fun i hi => ?right)
  case maps =>
    obtain ⟨hj, hv⟩ := mem_elements.1 hj
    refine mem_elements.2 ⟨Nat.mod_lt _ h₀, ?_⟩
    rw [← hbit _ (Nat.mod_lt _ h₀), add_sub_mod_add_mod hj hn, hv]
  case mapsBack =>
    obtain ⟨hi, ha⟩ := mem_elements.1 hi
    exact mem_elements.2 ⟨Nat.mod_lt _ h₀, (hbit i hi).trans ha⟩
  case left => exact add_sub_mod_add_mod (mem_elements.1 hj).1 hn
  case right => exact add_mod_add_sub_mod (mem_elements.1 hi).1 hn

/-- Clearing a single element takes it out of the set (R194). -/
theorem elements_saoClearElements_single (a : SetWord w) {m : Nat} (hm : m < w) :
    elements (saoClearElements a (bpeShiftLeft (1#w) m)) = (elements a).erase m := by
  ext j
  rw [Finset.mem_erase, mem_elements, mem_elements, and_left_comm]
  refine and_congr_right fun hj => ?_
  rw [saoClearElements, bpeClear, bpeAnd_getLsbD, bpeNot_getLsbD_of_lt _ hj, bpeShiftLeft_one, if_pos hm,
    ofNat_two_pow_getLsbD m hj, Bool.and_eq_true, Bool.not_eq_true', decide_eq_false_iff_not, and_comm, ne_comm]

/-- Clearing a member decreases the cardinality by one. -/
theorem saoCardinality_saoClearElements_single {a : SetWord w} {m : Nat} (hm : m ∈ elements a) :
    saoCardinality a = saoCardinality (saoClearElements a (bpeShiftLeft (1#w) m)) + 1 := by
  rw [saoCardinality_eq_card, saoCardinality_eq_card, elements_saoClearElements_single a (mem_elements.1 hm).1,
    Finset.card_erase_add_one hm]

theorem saoMin_of_ne_zero {a : SetWord w} (h : a ≠ 0#w) : saoMin a = .ok (lsb a) := if_neg h

theorem lsb_mem_elements {a : SetWord w} (h : a ≠ 0#w) : lsb a ∈ elements a := by
  obtain ⟨hlt, hbit, -⟩ := lsb_spec h
  exact mem_elements.2 ⟨hlt, hbit⟩

/-! ## The transactions of these commands -/

section
variable {s : State} {i : Instr} {x y : SetWord s.params.W} {n : Nat}

/-- A number up to the width survives on the 16 wires of `rcnt` (R24). -/
theorem givesCnt_of_commandResponse (hl : s.params.Legal) (hi : i.wellFormed = true) (hn : n ≤ s.params.W)
    (hr : commandResponse i s.params { valid := true, cmd := encode i, a := x, b := y } = cntResponse true n) :
    GivesCnt s i x y n := by
  have ⟨⟨_, hW⟩, _⟩ := hl
  exact ⟨BitVec.ofNat 16 n, by rw [BitVec.toNat_ofNat, Nat.mod_eq_of_lt (by omega)],
    gives_of_commandResponse hl hi hr⟩

theorem givesSet_shl (hl : s.params.Legal) (hn : n ≤ 65535) : GivesSet s (.shl n) x y (bpeShiftLeft x n) :=
  gives_of_commandResponse hl (decide_eq_true hn) rfl

theorem givesSet_shr (hl : s.params.Legal) (hn : n ≤ 65535) :
    GivesSet s (.shr n) x y (bpeShiftRight s.params.shrWin x n) :=
  gives_of_commandResponse hl (decide_eq_true hn) rfl

theorem givesSet_rotl (hl : s.params.Legal) (hn : n ≤ 65535) :
    GivesSet s (.rotl n) x y (bpeRotateLeft s.params.rotlWin x n) :=
  gives_of_commandResponse hl (decide_eq_true hn) rfl

theorem givesSet_rotr (hl : s.params.Legal) (hn : n ≤ 65535) :
    GivesSet s (.rotr n) x y (bpeRotateRight s.params.rotrWin x n) :=
  gives_of_commandResponse hl (decide_eq_true hn) rfl

theorem givesCnt_card (hl : s.params.Legal) : GivesCnt s .card x y (saoCardinality x) :=
  givesCnt_of_commandResponse hl rfl (popcount_le x) rfl

theorem givesCnt_min (hl : s.params.Legal) (hx : x ≠ 0#s.params.W) : GivesCnt s .min x y (lsb x) :=
  givesCnt_of_commandResponse hl rfl (lsb_spec hx).1.le (congrArg (cntOrErrorResponse true) (saoMin_of_ne_zero hx))

end

/-! ## The obligations -/

/-- Settles O18: the shift left as a number and bit by bit. -/
theorem shiftLeftBitByBit : Obligations.ShiftLeftBitByBit :=
  ⟨fun c h => decode_of_low_byte c _ _ h (by decide) rfl, fun s n =>
    setAnswer_of_commandResponse rfl ⟨bpeShiftLeft_toNat s.req.a n, bpeShiftLeft_getLsbD s.req.a n⟩⟩

/-- Settles O19: the shift right as a number and bit by bit. -/
theorem shiftRightBitByBit : Obligations.ShiftRightBitByBit :=
  ⟨fun c h => decode_of_low_byte c _ _ h (by decide) rfl, fun s n =>
    setAnswer_of_commandResponse rfl
      ⟨bpeShiftRight_toNat s.params.shrWin s.req.a n, fun j _ => bpeShiftRight_getLsbD s.params.shrWin s.req.a n j⟩⟩

/-- Settles O20: legal parameters have a window that is not empty and fits the width. -/
theorem rotateLeftBitByBit : Obligations.RotateLeftBitByBit :=
  ⟨fun c h => decode_of_low_byte c _ _ h (by decide) rfl, fun s n ⟨_, ⟨h₀, hr⟩, _⟩ =>
    setAnswer_of_commandResponse rfl (isRotl_bpeRotateLeft h₀ hr n s.req.a)⟩

/-- Settles O21, as O20. -/
theorem rotateRightBitByBit : Obligations.RotateRightBitByBit :=
  ⟨fun c h => decode_of_low_byte c _ _ h (by decide) rfl, fun s n ⟨_, _, ⟨h₀, hr⟩, _⟩ =>
    setAnswer_of_commandResponse rfl (isRotr_bpeRotateRight h₀ hr n s.req.a)⟩

/-- Settles O43: a rotate right is a rotate left by the rest of the window, and the amounts of rotates left add up. -/
theorem rotatesOfOneWindowCompose : Obligations.RotatesOfOneWindowCompose := by
  intro s x z m n hl hwin hx hmn
  have ⟨⟨_, hW⟩, ⟨h₀, hr⟩, _⟩ := hl
  have hrest : (s.params.rotlWin - n % s.params.rotlWin) % s.params.rotlWin < s.params.rotlWin := Nat.mod_lt _ h₀
  have hrotr : ∀ u : SetWord s.params.W,
      GivesSet s (.rotr n) u z (bpeRotateRight s.params.rotlWin u n) := fun u => by
    rw [hwin]
    exact givesSet_rotr hl (by omega)
  refine ⟨⟨_, hrotr x, ?turns⟩, ⟨_, givesSet_rotl hl (by omega), ?undoes⟩,
    ⟨_, _, givesSet_rotl hl (by omega), ?adds, givesSet_rotl hl hmn⟩⟩
  case turns =>
    rw [bpeRotateRight_eq_bpeRotateLeft h₀ hr]
    exact givesSet_rotl hl (by omega)
  case undoes =>
    have h := hrotr (bpeRotateLeft s.params.rotlWin x n)
    rwa [bpeRotateRight_bpeRotateLeft h₀ hr hx] at h
  case adds =>
    rw [← bpeRotateLeft_bpeRotateLeft h₀ hr]
    exact givesSet_rotl hl (by omega)

/-- Settles O44: both rotates move the elements one to one, the rotate right read backwards. -/
theorem consistentRotateKeepsCardinality : Obligations.ConsistentRotateKeepsCardinality := by
  intro s x z n hl hleft hright hn
  have ⟨⟨h₀, _⟩, _⟩ := hl
  have hrotl := (isRotl_bpeRotateLeft h₀ le_rfl n x).saoCardinality_eq h₀
  have hrotr := (isRotr_bpeRotateRight h₀ le_rfl n x).isRotl_of_width.saoCardinality_eq h₀
  refine ⟨_, _, _, givesSet_rotl hl hn, givesSet_rotr hl hn, givesCnt_card hl, ?_, ?_⟩
  · rw [hleft, ← hrotl]
    exact givesCnt_card hl
  · rw [hright, hrotr]
    exact givesCnt_card hl

/-- Settles O48: the counters answer the width on 0, and the probes are a single element that is rotated or truncated. -/
theorem callerDiscoversConfiguration : Obligations.CallerDiscoversConfiguration := by
  intro s z hl
  have ⟨⟨_, _⟩, ⟨hl₀, hlW⟩, ⟨hr₀, hrW⟩, _, hsW⟩ := hl
  have hrotl := givesSet_rotl (n := 8) (x := 1#s.params.W) (y := z) hl (by decide)
  have hrotr := givesSet_rotr (n := 1) (x := 1#s.params.W) (y := z) hl (by decide)
  have hshr := givesSet_shr (n := 0) (x := BitVec.ofNat s.params.W 0x10) (y := z) hl (by decide)
  rw [bpeRotateLeft_one hl₀ hlW] at hrotl
  rw [bpeRotateRight_one hr₀ hrW] at hrotr
  rw [bpeShiftRight_zero] at hshr
  refine ⟨?clz, ?ctz, fun _ hwin => ?rotlFull, fun hwin => ?rotlLegacy, fun hwin => ?rotrFull, fun hwin => ?rotrLegacy,
    fun hwin => ?shrFull, fun hwin => ?shrLegacy⟩
  case clz => exact givesCnt_of_commandResponse hl rfl le_rfl (congrArg (cntResponse true) (if_pos rfl))
  case ctz => exact givesCnt_of_commandResponse hl rfl le_rfl (congrArg (cntResponse true) (if_pos rfl))
  case rotlFull => rwa [hwin] at hrotl
  case rotlLegacy => rwa [hwin] at hrotl
  case rotrFull =>
    have hrest : (s.params.W - 1 % s.params.W) % s.params.W = s.params.W - 1 := by
      rcases Nat.eq_or_lt_of_le (show 1 ≤ s.params.W by omega) with h | h
      · rw [← h]
      · rw [Nat.mod_eq_of_lt h, Nat.mod_eq_of_lt (by omega)]
    rwa [hwin, hrest] at hrotr
  case rotrLegacy => rwa [hwin] at hrotr
  case shrFull => rwa [hwin, trunc_of_lt (BitVec.isLt _)] at hshr
  case shrLegacy => rwa [hwin, trunc_four_ofNat_sixteen (hwin ▸ hsW)] at hshr

/-- Settles O57: MIN finds a member, SHL makes it a single element, and clearing that takes out just this member. -/
theorem removingTheLeastElementDecreasesCardinality : Obligations.RemovingTheLeastElementDecreasesCardinality := by
  intro s x z hl hx
  have ⟨⟨_, hW⟩, _⟩ := hl
  have hmem := lsb_mem_elements hx
  have hlt := (mem_elements.1 hmem).1
  have hgone : lsb x ∉ elements (saoClearElements x (bpeShiftLeft (1#s.params.W) (lsb x))) := by
    rw [elements_saoClearElements_single x hlt]
    exact Finset.notMem_erase _ _
  refine ⟨lsb x, _, _, _, givesCnt_min hl hx, givesSet_shl hl (by omega), gives_of_commandResponse hl rfl rfl, ?_,
    givesCnt_card hl, ?_⟩
  · exact saoCardinality_saoClearElements_single hmem ▸ givesCnt_card hl
  · exact Bool.eq_false_iff.2 fun hbit => hgone (mem_elements.2 ⟨hlt, hbit⟩)

end Sys2Proof.Machine

/-! # Masked mutation (O22) -/

namespace Sys2Proof.Machine

variable {w : Nat}

/-! ## The masked mutations bit by bit: a 1 of the mask changes the bit, a 0 keeps it -/

/-- CLEAR writes 0 under the mask (R130). -/
theorem bpeClear_getLsbD_of_lt (a mask : SetWord w) {j : Nat} (hj : j < w) :
    (bpeClear a mask).getLsbD j = if mask.getLsbD j then false else a.getLsbD j := by
  rw [bpeClear, bpeAnd_getLsbD, bpeNot_getLsbD_of_lt mask hj]
  cases mask.getLsbD j
  case false => exact Bool.and_true _
  case true => exact Bool.and_false _

/-- SET writes 1 under the mask (R131). -/
theorem bpeSet_getLsbD (a mask : SetWord w) (j : Nat) :
    (bpeSet a mask).getLsbD j = if mask.getLsbD j then true else a.getLsbD j := by
  rw [bpeSet, bpeOr_getLsbD]
  cases mask.getLsbD j
  case false => exact Bool.or_false _
  case true => exact Bool.or_true _

/-- TOGGLE writes the inverted bit under the mask (R132). -/
theorem bpeToggle_getLsbD (a mask : SetWord w) (j : Nat) :
    (bpeToggle a mask).getLsbD j = if mask.getLsbD j then !a.getLsbD j else a.getLsbD j := by
  rw [bpeToggle, bpeXor_getLsbD]
  cases mask.getLsbD j
  case false => exact Bool.xor_false _
  case true => exact Bool.xor_true _

/-! ## The obligation -/

/-- Settles O22: each word decodes by its low byte, and each command answers with its masked mutation, whose bits are
known. -/
theorem maskedMutationBitByBit : Obligations.MaskedMutationBitByBit := by
  refine ⟨fun c => ⟨?clear, ?set, ?toggle⟩, fun s => ⟨?execClear, ?execSet, ?execToggle⟩⟩
  case clear | set | toggle => exact fun h => decode_of_low_byte c _ _ h (by decide) rfl
  case execClear => exact setAnswer_of_commandResponse rfl fun _ hj => bpeClear_getLsbD_of_lt s.req.a s.req.b hj
  case execSet => exact setAnswer_of_commandResponse rfl fun j _ => bpeSet_getLsbD s.req.a s.req.b j
  case execToggle => exact setAnswer_of_commandResponse rfl fun j _ => bpeToggle_getLsbD s.req.a s.req.b j

end Sys2Proof.Machine

/-! # Extraction and counts (O23, O24, O45) -/

namespace Sys2Proof.Machine

variable {w : Nat}

/-! ## The answers of commands that count or fail -/

/-- A command whose response is an error answers with that error's code, in every state (R246). -/
theorem errAnswer_of_commandResponse {i : Instr} {s : State} {e : Error}
    (hr : commandResponse i s.params s.req = errorResponse s.req.valid e) : ErrAnswer i s (errCode e) := by
  rw [ErrAnswer, exec_eq_respond, hr]
  rfl

/-- A command of a legal instance whose response is a number up to the width answers with that number (R24, R26). -/
theorem cntAnswer_of_commandResponse {i : Instr} {s : State} {n : Nat} {p : Nat → Prop} (hl : s.params.Legal)
    (hr : commandResponse i s.params s.req = cntResponse s.req.valid n) (hn : n ≤ s.params.W) (hp : p n) :
    CntAnswer i s p := by
  have ⟨⟨_, hW⟩, _⟩ := hl
  refine ⟨BitVec.ofNat 16 n, by rw [exec_eq_respond, hr]; rfl, ?_⟩
  rwa [BitVec.toNat_ofNat, Nat.mod_eq_of_lt (by omega)]

/-! ## The counters as least counts -/

/-- CLZ is the least distance of a 1 from the top, or the width (R142). -/
theorem bpeCountLeadingZeros_least (a : SetWord w) :
    (bpeCountLeadingZeros a = w ∨ a.getLsbD (w - 1 - bpeCountLeadingZeros a) = true) ∧
      ∀ k, k < bpeCountLeadingZeros a → a.getLsbD (w - 1 - k) = false := by
  obtain ⟨rfl, hw⟩ | ⟨ha, hsum⟩ := bpeCountLeadingZeros_cases a
  · exact ⟨.inl hw, fun _ _ => BitVec.getLsbD_zero⟩
  · obtain ⟨-, htop, habove⟩ := msb_spec ha
    have hpos : w - 1 - bpeCountLeadingZeros a = msb a := by omega
    exact ⟨.inr (hpos ▸ htop), fun k hk => habove _ (by omega)⟩

/-- CTZ is the least position of a 1, or the width (R143). -/
theorem bpeCountTrailingZeros_least (a : SetWord w) :
    (bpeCountTrailingZeros a = w ∨ a.getLsbD (bpeCountTrailingZeros a) = true) ∧
      ∀ k, k < bpeCountTrailingZeros a → a.getLsbD k = false := by
  obtain ⟨rfl, hw⟩ | ⟨ha, hlsb⟩ := bpeCountTrailingZeros_cases a
  · exact ⟨.inl hw, fun _ _ => BitVec.getLsbD_zero⟩
  · obtain ⟨-, hbit, hbelow⟩ := lsb_spec ha
    rw [hlsb]
    exact ⟨.inr hbit, hbelow⟩

/-! ## The extremes and the cardinality -/

theorem saoMax_of_ne_zero {a : SetWord w} (h : a ≠ 0#w) : saoMax a = .ok (msb a) := if_neg h

theorem msb_mem_elements {a : SetWord w} (h : a ≠ 0#w) : msb a ∈ elements a := by
  obtain ⟨hlt, hbit, -⟩ := msb_spec h
  exact mem_elements.2 ⟨hlt, hbit⟩

theorem lsb_le_of_mem_elements {a : SetWord w} (h : a ≠ 0#w) {j : Nat} (hj : j ∈ elements a) : lsb a ≤ j := by
  obtain ⟨-, -, hbelow⟩ := lsb_spec h
  refine le_of_not_gt fun hlt => ?_
  exact Bool.false_ne_true ((hbelow j hlt).symm.trans (mem_elements.1 hj).2)

theorem le_msb_of_mem_elements {a : SetWord w} (h : a ≠ 0#w) {j : Nat} (hj : j ∈ elements a) : j ≤ msb a := by
  obtain ⟨-, -, habove⟩ := msb_spec h
  refine le_of_not_gt fun hlt => ?_
  exact Bool.false_ne_true ((habove j hlt).symm.trans (mem_elements.1 hj).2)

theorem lsb_le_msb {a : SetWord w} (h : a ≠ 0#w) : lsb a ≤ msb a := lsb_le_of_mem_elements h (msb_mem_elements h)

/-- A set has one element exactly if its least element is its greatest: all its elements lie between the two. -/
theorem saoCardinality_eq_one_iff {a : SetWord w} (h : a ≠ 0#w) : saoCardinality a = 1 ↔ lsb a = msb a := by
  rw [saoCardinality_eq_card]
  constructor
  · intro hcard
    exact Finset.card_le_one.1 hcard.le _ (lsb_mem_elements h) _ (msb_mem_elements h)
  · intro heq
    refine Finset.card_eq_one.2 ⟨lsb a, Finset.eq_singleton_iff_unique_mem.2 ⟨lsb_mem_elements h, fun j hj => ?_⟩⟩
    exact le_antisymm (heq ▸ le_msb_of_mem_elements h hj) (lsb_le_of_mem_elements h hj)

/-! ## The transactions of the counters and of MAX -/

section
variable {s : State} {x y : SetWord s.params.W}

theorem givesCnt_clz (hl : s.params.Legal) : GivesCnt s .clz x y (bpeCountLeadingZeros x) :=
  givesCnt_of_commandResponse hl rfl (bpeCountLeadingZeros_le x) rfl

theorem givesCnt_ctz (hl : s.params.Legal) : GivesCnt s .ctz x y (bpeCountTrailingZeros x) :=
  givesCnt_of_commandResponse hl rfl (bpeCountTrailingZeros_le x) rfl

theorem givesCnt_max (hl : s.params.Legal) (hx : x ≠ 0#s.params.W) : GivesCnt s .max x y (msb x) :=
  givesCnt_of_commandResponse hl rfl (msb_spec hx).1.le (congrArg (cntOrErrorResponse true) (saoMax_of_ne_zero hx))

end

/-! ## The obligations -/

/-- Settles O23: the range check is the one case split, and a valid range is known as a number and bit by bit. -/
theorem extractRightAlignsOrRejects : Obligations.ExtractRightAlignsOrRejects := by
  refine ⟨fun c h => decode_of_low_byte c _ _ h (by decide) rfl, fun s st len => ⟨fun hvalid => ?_, fun hlt => ?_⟩⟩
  · obtain ⟨hlt, -⟩ | ⟨-, v, hv, hnum, hbit⟩ := bpeExtract_cases s.req.a st len
    · omega
    · exact setAnswer_of_commandResponse (congrArg (setOrErrorResponse s.req.valid) hv) ⟨hnum, fun j _ => hbit j⟩
  · exact errAnswer_of_commandResponse (e := .invalidRange)
      (congrArg (setOrErrorResponse s.req.valid) (bpeExtract_of_lt s.req.a hlt))

/-- Settles O24: each counter is a least count, and a count up to a legal width fits the port. -/
theorem zeroCountersAreLeastCounts : Obligations.ZeroCountersAreLeastCounts := by
  refine ⟨fun c => ⟨?clz, ?ctz⟩, fun s hl => ⟨?execClz, ?execCtz⟩⟩
  case clz | ctz => exact fun h => decode_of_low_byte c _ _ h (by decide) rfl
  case execClz =>
    have hle := bpeCountLeadingZeros_le s.req.a
    exact cntAnswer_of_commandResponse hl rfl hle ⟨hle, bpeCountLeadingZeros_least s.req.a⟩
  case execCtz =>
    have hle := bpeCountTrailingZeros_le s.req.a
    exact cntAnswer_of_commandResponse hl rfl hle ⟨hle, bpeCountTrailingZeros_least s.req.a⟩

/-- Settles O45: CLZ is the distance of MAX from the top and CTZ is MIN, so what they add up to says how far the extremes
are apart; the counts of the empty set are a caller's probe of the width (R274). -/
theorem countersAndExtremesAgree : Obligations.CountersAndExtremesAgree := by
  intro s x z hl
  refine ⟨fun hx => ?nonempty, ?empty⟩
  case nonempty =>
    obtain ⟨-, hlead⟩ := (bpeCountLeadingZeros_cases x).resolve_left fun h => hx h.1
    obtain ⟨-, htrail⟩ := (bpeCountTrailingZeros_cases x).resolve_left fun h => hx h.1
    have hle := lsb_le_msb hx
    refine ⟨_, _, _, _, _, givesCnt_clz hl, givesCnt_ctz hl, givesCnt_min hl hx, givesCnt_max hl hx, givesCnt_card hl,
      by omega, htrail, hle, by omega, ?_⟩
    rw [saoCardinality_eq_one_iff hx]
    omega
  case empty =>
    rintro rfl
    obtain ⟨hclz, hctz, -⟩ := callerDiscoversConfiguration s z hl
    exact ⟨hclz, hctz⟩

end Sys2Proof.Machine

/-! # Basic set algebra (O25, O56) -/

namespace Sys2Proof.Machine

variable {w : Nat}

/-! ## Membership in the results -/

/-- The union has the elements of either set (R160). -/
theorem saoUnion_getLsbD_eq_true_iff (a b : SetWord w) (j : Nat) :
    (saoUnion a b).getLsbD j = true ↔ a.getLsbD j = true ∨ b.getLsbD j = true := by
  rw [saoUnion, bpeOr_getLsbD, Bool.or_eq_true]

/-- The intersection has the common elements (R161). -/
theorem saoIntersection_getLsbD_eq_true_iff (a b : SetWord w) (j : Nat) :
    (saoIntersection a b).getLsbD j = true ↔ a.getLsbD j = true ∧ b.getLsbD j = true := by
  rw [saoIntersection, bpeAnd_getLsbD, Bool.and_eq_true]

/-- The complement within the universe has the elements that the set lacks (R164). -/
theorem saoComplement_getLsbD_eq_true_iff (a : SetWord w) {j : Nat} (hj : j < w) :
    (saoComplement a).getLsbD j = true ↔ ¬ a.getLsbD j = true := by
  rw [saoComplement, bpeNot_getLsbD_of_lt a hj, Bool.not_eq_true', Bool.not_eq_true]

/-- The difference is the intersection with the complement (R162). -/
theorem saoDifference_getLsbD_eq_true_iff (a b : SetWord w) {j : Nat} (hj : j < w) :
    (saoDifference a b).getLsbD j = true ↔ a.getLsbD j = true ∧ ¬ b.getLsbD j = true :=
  (saoIntersection_getLsbD_eq_true_iff a (saoComplement b) j).trans
    (and_congr_right fun _ => saoComplement_getLsbD_eq_true_iff b hj)

/-- The symmetric difference has the elements on which the sets disagree (R163). -/
theorem saoSymmetricDifference_getLsbD_eq_true_iff (a b : SetWord w) (j : Nat) :
    (saoSymmetricDifference a b).getLsbD j = true ↔ ¬ (a.getLsbD j = true ↔ b.getLsbD j = true) := by
  rw [saoSymmetricDifference, bpeXor_getLsbD_eq_true_iff, ne_eq, Bool.eq_iff_iff]

/-! ## The cardinality of the complement -/

/-- The complement keeps exactly the positions of the universe that the set does not have. -/
theorem elements_saoComplement (a : SetWord w) :
    elements (saoComplement a) = (Finset.range w).filter fun j => ¬ a.getLsbD j = true :=
  Finset.filter_congr fun _ hj => saoComplement_getLsbD_eq_true_iff a (Finset.mem_range.1 hj)

/-- A set and its complement split the universe (R172). -/
theorem saoCardinality_add_saoCardinality_saoComplement (a : SetWord w) :
    saoCardinality a + saoCardinality (saoComplement a) = w := by
  rw [saoCardinality_eq_card, saoCardinality_eq_card, elements_saoComplement, elements,
    Finset.card_filter_add_card_filter_not, Finset.card_range]

/-! ## The obligations -/

/-- Settles O25: each word decodes by its low byte, and each command answers with its set function, whose elements are
known. -/
theorem basicSetAlgebraElementwise : Obligations.BasicSetAlgebraElementwise := by
  refine ⟨fun c => ⟨?union, ?inter, ?diff, ?symdiff, ?compl⟩,
    fun s => ⟨?execUnion, ?execInter, ?execDiff, ?execSymdiff, ?execCompl⟩⟩
  case union | inter | diff | symdiff | compl => exact fun h => decode_of_low_byte c _ _ h (by decide) rfl
  case execUnion => exact setAnswer_of_commandResponse rfl fun j _ => saoUnion_getLsbD_eq_true_iff s.req.a s.req.b j
  case execInter =>
    exact setAnswer_of_commandResponse rfl fun j _ => saoIntersection_getLsbD_eq_true_iff s.req.a s.req.b j
  case execDiff =>
    exact setAnswer_of_commandResponse rfl fun _ hj => saoDifference_getLsbD_eq_true_iff s.req.a s.req.b hj
  case execSymdiff =>
    exact setAnswer_of_commandResponse rfl fun j _ => saoSymmetricDifference_getLsbD_eq_true_iff s.req.a s.req.b j
  case execCompl => exact setAnswer_of_commandResponse rfl fun _ hj => saoComplement_getLsbD_eq_true_iff s.req.a hj

/-- Settles O56: the transactions give the two cardinalities, which split the universe. -/
theorem cardinalityOfComplement : Obligations.CardinalityOfComplement := fun _ x _ hl =>
  ⟨saoComplement x, _, _, gives_of_commandResponse hl rfl rfl, givesCnt_card hl, givesCnt_card hl,
    saoCardinality_add_saoCardinality_saoComplement x⟩

end Sys2Proof.Machine

/-! # Set predicates and measures (O26, O27, O28) -/

namespace Sys2Proof.Machine

variable {w : Nat}

/-- A command whose response is a truth value answers with that value, in every state (R26, R27). -/
theorem flagAnswer_of_commandResponse {i : Instr} {s : State} {f : Bool} {p : Prop}
    (hr : commandResponse i s.params s.req = flagResponse s.req.valid f) (hf : f = true ↔ p) : FlagAnswer i s p :=
  ⟨f, by rw [exec_eq_respond, hr]; rfl, hf⟩

/-! ## The empty set has no extremes -/

theorem saoMin_zero : saoMin (0#w) = .error .emptySet := if_pos rfl

theorem saoMax_zero : saoMax (0#w) = .error .emptySet := if_pos rfl

/-! ## The obligations -/

/-- Settles O26: each word decodes by its low byte, and each command answers with its predicate, whose truth is known
element by element. -/
theorem predicatesDecideInclusion : Obligations.PredicatesDecideInclusion := by
  refine ⟨fun c => ⟨?issub, ?issuper, ?isempty⟩, fun s => ⟨?execIssub, ?execIssuper, ?execIsempty⟩⟩
  case issub | issuper | isempty => exact fun h => decode_of_low_byte c _ _ h (by decide) rfl
  case execIssub => exact flagAnswer_of_commandResponse rfl (saoIsSubset_iff s.req.a s.req.b)
  case execIssuper => exact flagAnswer_of_commandResponse rfl (saoIsSuperset_iff s.req.a s.req.b)
  case execIsempty => exact flagAnswer_of_commandResponse rfl (saoIsEmpty_iff s.req.a)

/-- Settles O27: the population count is the cardinality, and a count up to a legal width fits the port. -/
theorem cardinalityCountsElements : Obligations.CardinalityCountsElements :=
  ⟨fun c h => decode_of_low_byte c _ _ h (by decide) rfl, fun s hl =>
    cntAnswer_of_commandResponse hl rfl (popcount_le s.req.a) (saoCardinality_eq_card s.req.a)⟩

/-- Settles O28: emptiness is the one case split; the extremes of a non-empty set are the ends that the two scans find,
which lie below a legal width and so fit the port. -/
theorem minMaxAreExtremeElements : Obligations.MinMaxAreExtremeElements := by
  refine ⟨fun c => ⟨?min, ?max⟩, fun s hl => ⟨fun ha => ⟨?execMin, ?execMax⟩, fun ha => ⟨?failMin, ?failMax⟩⟩⟩
  case min | max => exact fun h => decode_of_low_byte c _ _ h (by decide) rfl
  case execMin =>
    have hspec := lsb_spec ha
    exact cntAnswer_of_commandResponse hl (congrArg (cntOrErrorResponse s.req.valid) (saoMin_of_ne_zero ha))
      hspec.1.le hspec
  case execMax =>
    have hspec := msb_spec ha
    exact cntAnswer_of_commandResponse hl (congrArg (cntOrErrorResponse s.req.valid) (saoMax_of_ne_zero ha))
      hspec.1.le hspec
  case failMin =>
    exact errAnswer_of_commandResponse (e := .emptySet)
      (congrArg (cntOrErrorResponse s.req.valid) ((congrArg saoMin ha).trans saoMin_zero))
  case failMax =>
    exact errAnswer_of_commandResponse (e := .emptySet)
      (congrArg (cntOrErrorResponse s.req.valid) ((congrArg saoMax ha).trans saoMax_zero))

end Sys2Proof.Machine

/-! # Compound and delegating set operations (O29 to O35) -/

namespace Sys2Proof.Machine

variable {w : Nat}

/-! ## The fused shifts and rotates: only `A` is moved, and `B` is combined position by position -/

/-- The raised elements of `A` that stay in the universe, and the elements of `B` (R190). -/
theorem saoShiftLeftUnion_getLsbD (a b : SetWord w) (n : Nat) {j : Nat} (hj : j < w) :
    (saoShiftLeftUnion a b n).getLsbD j = ((decide (n ≤ j) && a.getLsbD (j - n)) || b.getLsbD j) := by
  rw [saoShiftLeftUnion, bpeOr_getLsbD, bpeShiftLeft_getLsbD a n j hj]

/-- The lowered elements of `A` within the window `r` that are also in `B` (R191). -/
theorem saoShiftRightIntersection_getLsbD (r : Nat) (a b : SetWord w) (n j : Nat) :
    (saoShiftRightIntersection r a b n).getLsbD j = ((decide (j + n < r) && a.getLsbD (j + n)) && b.getLsbD j) := by
  rw [saoShiftRightIntersection, bpeAnd_getLsbD, bpeShiftRight_getLsbD]

/-- The rotated `A` without `B` (R192). -/
theorem saoRotateLeftDifference_getLsbD (r : Nat) (a b : SetWord w) (n : Nat) {j : Nat} (hj : j < w) :
    (saoRotateLeftDifference r a b n).getLsbD j = ((bpeRotateLeft r a n).getLsbD j && !b.getLsbD j) := by
  rw [saoRotateLeftDifference, bpeAnd_getLsbD, bpeNot_getLsbD_of_lt b hj]

/-- The rotated `A` exclusive or `B` (R193). -/
theorem saoRotateRightSymmetricDifference_getLsbD (r : Nat) (a b : SetWord w) (n j : Nat) :
    (saoRotateRightSymmetricDifference r a b n).getLsbD j = ((bpeRotateRight r a n).getLsbD j ^^ b.getLsbD j) :=
  bpeXor_getLsbD _ _ _

/-! ## The element mutations are the basic set operations with the mask as second set -/

/-- Clearing elements is the difference with the mask (R194). -/
theorem saoClearElements_eq_saoDifference (a mask : SetWord w) : saoClearElements a mask = saoDifference a mask := rfl

/-- Setting elements is the union with the mask (R195). -/
theorem saoSetElements_eq_saoUnion (a mask : SetWord w) : saoSetElements a mask = saoUnion a mask := rfl

/-- Toggling elements is the symmetric difference with the mask (R196). -/
theorem saoToggleElements_eq_saoSymmetricDifference (a mask : SetWord w) :
    saoToggleElements a mask = saoSymmetricDifference a mask := rfl

/-! ## Subset extraction -/

/-- A position of a right-aligned range stands for the element of the range that lies `st` above it (R197). -/
theorem range_bit_eq_true_iff (a : SetWord w) (st len j : Nat) :
    (decide (j < len) && a.getLsbD (st + j)) = true ↔
      ∃ i, a.getLsbD i = true ∧ st ≤ i ∧ i < st + len ∧ j = i - st := by
  rw [Bool.and_eq_true, decide_eq_true_iff]
  constructor
  · rintro ⟨hj, ha⟩
    exact ⟨st + j, ha, by omega, by omega, by omega⟩
  · rintro ⟨i, ha, hst, hi, rfl⟩
    exact ⟨by omega, by rwa [Nat.add_sub_cancel' hst]⟩

/-- The subset of a valid range is the elements in it, renumbered from 0 (R197). -/
theorem saoExtractSubset_of_le (a : SetWord w) {st len : Nat} (h : st + len ≤ w) :
    ∃ v, saoExtractSubset a st len = .ok v ∧ ∀ j,
      (v.getLsbD j = true ↔ ∃ i, a.getLsbD i = true ∧ st ≤ i ∧ i < st + len ∧ j = i - st) := by
  obtain ⟨hlt, -⟩ | ⟨-, v, hv, -, hbit⟩ := bpeExtract_cases a st len
  · omega
  · exact ⟨v, hv, fun j => by rw [hbit j, range_bit_eq_true_iff]⟩

/-- The primitive's error is passed on (R197, R242). -/
theorem saoExtractSubset_of_lt (a : SetWord w) {st len : Nat} (h : w < st + len) :
    saoExtractSubset a st len = .error .invalidRange := bpeExtract_of_lt a h

/-! ## The counters of the set layer by the extremes of the set -/

theorem mem_elements_of_getLsbD {a : SetWord w} {m : Nat} (hm : a.getLsbD m = true) : m ∈ elements a :=
  mem_elements.2 ⟨BitVec.lt_of_getLsbD hm, hm⟩

theorem ne_zero_of_getLsbD {a : SetWord w} {m : Nat} (hm : a.getLsbD m = true) : a ≠ 0#w := by
  rintro rfl
  exact Bool.false_ne_true (BitVec.getLsbD_zero.symm.trans hm)

/-- The greatest element is unique, so any element with none above it is the one the scan finds. -/
theorem msb_eq_of_greatest {a : SetWord w} {m : Nat} (hm : a.getLsbD m = true)
    (habove : ∀ k, m < k → a.getLsbD k = false) : msb a = m := by
  have ha := ne_zero_of_getLsbD hm
  obtain ⟨-, hbit, -⟩ := msb_spec ha
  refine le_antisymm (le_of_not_gt fun hlt => ?_) (le_msb_of_mem_elements ha (mem_elements_of_getLsbD hm))
  exact Bool.false_ne_true ((habove _ hlt).symm.trans hbit)

/-- The least element is unique, so any element with none below it is the one the scan finds. -/
theorem lsb_eq_of_least {a : SetWord w} {m : Nat} (hm : a.getLsbD m = true)
    (hbelow : ∀ k, k < m → a.getLsbD k = false) : lsb a = m := by
  have ha := ne_zero_of_getLsbD hm
  obtain ⟨-, hbit, -⟩ := lsb_spec ha
  refine le_antisymm (lsb_le_of_mem_elements ha (mem_elements_of_getLsbD hm)) (le_of_not_gt fun hlt => ?_)
  exact Bool.false_ne_true ((hbelow _ hlt).symm.trans hbit)

/-- On the empty set SCLZ answers the width (R198). -/
theorem saoCountLeadingZeros_zero : saoCountLeadingZeros (0#w) = w :=
  show bpeCountLeadingZeros (0#w) = w from if_pos rfl

/-- On the empty set SCTZ answers the width (R199). -/
theorem saoCountTrailingZeros_zero : saoCountTrailingZeros (0#w) = w :=
  show bpeCountTrailingZeros (0#w) = w from if_pos rfl

/-- SCLZ counts the elements of the universe above the greatest element of the set (R198). -/
theorem saoCountLeadingZeros_of_greatest {a : SetWord w} {m : Nat} (hm : a.getLsbD m = true)
    (habove : ∀ k, m < k → a.getLsbD k = false) : saoCountLeadingZeros a = w - 1 - m := by
  rw [saoCountLeadingZeros, bpeCountLeadingZeros, if_neg (ne_zero_of_getLsbD hm), msb_eq_of_greatest hm habove]

/-- SCTZ is the least element of the set (R199). -/
theorem saoCountTrailingZeros_of_least {a : SetWord w} {m : Nat} (hm : a.getLsbD m = true)
    (hbelow : ∀ k, k < m → a.getLsbD k = false) : saoCountTrailingZeros a = m := by
  rw [saoCountTrailingZeros, bpeCountTrailingZeros, if_neg (ne_zero_of_getLsbD hm), lsb_eq_of_least hm hbelow]

/-! ## The obligations -/

/-- Settles O29: the bits of the raised `A` together with `B`. -/
theorem shiftLeftUnionBitByBit : Obligations.ShiftLeftUnionBitByBit :=
  ⟨fun c h => decode_of_low_byte c _ _ h (by decide) rfl, fun s n =>
    setAnswer_of_commandResponse rfl fun _ hj => saoShiftLeftUnion_getLsbD s.req.a s.req.b n hj⟩

/-- Settles O30: the bits of the lowered `A` within `SHR_WIN` and `B`. -/
theorem shiftRightIntersectionBitByBit : Obligations.ShiftRightIntersectionBitByBit :=
  ⟨fun c h => decode_of_low_byte c _ _ h (by decide) rfl, fun s n =>
    setAnswer_of_commandResponse rfl fun j _ =>
      saoShiftRightIntersection_getLsbD s.params.shrWin s.req.a s.req.b n j⟩

/-- Settles O31: the rotated value is the primitive's, whose window is not empty and fits the width. -/
theorem rotateLeftDifferenceBitByBit : Obligations.RotateLeftDifferenceBitByBit :=
  ⟨fun c h => decode_of_low_byte c _ _ h (by decide) rfl, fun s n ⟨_, ⟨h₀, hr⟩, _⟩ =>
    setAnswer_of_commandResponse rfl ⟨_, isRotl_bpeRotateLeft h₀ hr n s.req.a, fun _ hj =>
      saoRotateLeftDifference_getLsbD s.params.rotlWin s.req.a s.req.b n hj⟩⟩

/-- Settles O32, as O31. -/
theorem rotateRightSymmetricDifferenceBitByBit : Obligations.RotateRightSymmetricDifferenceBitByBit :=
  ⟨fun c h => decode_of_low_byte c _ _ h (by decide) rfl, fun s n ⟨_, _, ⟨h₀, hr⟩, _⟩ =>
    setAnswer_of_commandResponse rfl ⟨_, isRotr_bpeRotateRight h₀ hr n s.req.a, fun j _ =>
      saoRotateRightSymmetricDifference_getLsbD s.params.rotrWin s.req.a s.req.b n j⟩⟩

/-- Settles O33: each command answers with a basic set operation on the set and the mask, whose elements are known. -/
theorem elementMutationElementwise : Obligations.ElementMutationElementwise := by
  refine ⟨fun c => ⟨?clrelem, ?setelem, ?tglelem⟩, fun s => ⟨?execClrelem, ?execSetelem, ?execTglelem⟩⟩
  case clrelem | setelem | tglelem => exact fun h => decode_of_low_byte c _ _ h (by decide) rfl
  case execClrelem =>
    refine setAnswer_of_commandResponse rfl fun j hj => ?_
    rw [saoClearElements_eq_saoDifference]
    exact saoDifference_getLsbD_eq_true_iff s.req.a s.req.b hj
  case execSetelem =>
    refine setAnswer_of_commandResponse rfl fun j _ => ?_
    rw [saoSetElements_eq_saoUnion]
    exact saoUnion_getLsbD_eq_true_iff s.req.a s.req.b j
  case execTglelem =>
    refine setAnswer_of_commandResponse rfl fun j _ => ?_
    rw [saoToggleElements_eq_saoSymmetricDifference]
    exact saoSymmetricDifference_getLsbD_eq_true_iff s.req.a s.req.b j

/-- Settles O34: the range check is the one case split, and a valid range is known element by element. -/
theorem extractSubsetRebasesOrRejects : Obligations.ExtractSubsetRebasesOrRejects := by
  refine ⟨fun c h => decode_of_low_byte c _ _ h (by decide) rfl, fun s st len => ⟨fun hvalid => ?_, fun hlt => ?_⟩⟩
  · obtain ⟨v, hv, hbit⟩ := saoExtractSubset_of_le s.req.a hvalid
    exact setAnswer_of_commandResponse (congrArg (setOrErrorResponse s.req.valid) hv) fun j _ => hbit j
  · exact errAnswer_of_commandResponse (e := .invalidRange)
      (congrArg (setOrErrorResponse s.req.valid) (saoExtractSubset_of_lt s.req.a hlt))

/-- Settles O35: the empty set or a given extreme fixes each count, and a count up to a legal width fits the port. -/
theorem setZeroCountersAgreeWithExtremes : Obligations.SetZeroCountersAgreeWithExtremes := by
  refine ⟨fun c => ⟨?sclz, ?sctz⟩, fun s hl => ⟨?execSclz, ?execSctz⟩⟩
  case sclz | sctz => exact fun h => decode_of_low_byte c _ _ h (by decide) rfl
  case execSclz =>
    exact cntAnswer_of_commandResponse hl rfl (bpeCountLeadingZeros_le s.req.a)
      ⟨fun ha => (congrArg saoCountLeadingZeros ha).trans saoCountLeadingZeros_zero,
        fun _ => saoCountLeadingZeros_of_greatest⟩
  case execSctz =>
    exact cntAnswer_of_commandResponse hl rfl (bpeCountTrailingZeros_le s.req.a)
      ⟨fun ha => (congrArg saoCountTrailingZeros ha).trans saoCountTrailingZeros_zero,
        fun _ => saoCountTrailingZeros_of_least⟩

end Sys2Proof.Machine

/-! # Algebraic laws and boundary behaviours (O52, O53, O54, O55) -/

namespace Sys2Proof.Machine

variable {w : Nat}

/-! ## The laws of the set functions -/

theorem saoUnion_self (a : SetWord w) : saoUnion a a = a := BitVec.or_self

theorem saoIntersection_self (a : SetWord w) : saoIntersection a a = a := BitVec.and_self

theorem saoUnion_comm (a b : SetWord w) : saoUnion a b = saoUnion b a := BitVec.or_comm a b

theorem saoIntersection_comm (a b : SetWord w) : saoIntersection a b = saoIntersection b a := BitVec.and_comm a b

theorem saoUnion_assoc (a b c : SetWord w) : saoUnion (saoUnion a b) c = saoUnion a (saoUnion b c) :=
  BitVec.or_assoc a b c

theorem saoIntersection_assoc (a b c : SetWord w) :
    saoIntersection (saoIntersection a b) c = saoIntersection a (saoIntersection b c) := BitVec.and_assoc a b c

theorem saoIntersection_saoUnion_distrib (a b c : SetWord w) :
    saoIntersection a (saoUnion b c) = saoUnion (saoIntersection a b) (saoIntersection a c) :=
  BitVec.and_or_distrib_left

theorem saoUnion_saoIntersection_distrib (a b c : SetWord w) :
    saoUnion a (saoIntersection b c) = saoIntersection (saoUnion a b) (saoUnion a c) := by
  refine eq_of_bits fun j _ => Bool.eq_iff_iff.2 ?_
  simp only [saoUnion_getLsbD_eq_true_iff, saoIntersection_getLsbD_eq_true_iff, or_and_left]

theorem saoComplement_saoComplement (a : SetWord w) : saoComplement (saoComplement a) = a := BitVec.not_not

theorem saoComplement_saoUnion (a b : SetWord w) :
    saoComplement (saoUnion a b) = saoIntersection (saoComplement a) (saoComplement b) := BitVec.not_or

theorem saoComplement_saoIntersection (a b : SetWord w) :
    saoComplement (saoIntersection a b) = saoUnion (saoComplement a) (saoComplement b) := BitVec.not_and

theorem saoSymmetricDifference_comm (a b : SetWord w) :
    saoSymmetricDifference a b = saoSymmetricDifference b a := BitVec.xor_comm a b

theorem saoSymmetricDifference_self (a : SetWord w) : saoSymmetricDifference a a = 0#w := BitVec.xor_self

/-- Superset is the converse of subset: both ask for the same inclusion (R223). -/
theorem saoIsSuperset_swap (a b : SetWord w) : saoIsSuperset b a = saoIsSubset a b :=
  Bool.eq_iff_iff.2 ((saoIsSuperset_iff b a).trans (saoIsSubset_iff a b).symm)

/-! ## The functions on the empty and on the full set -/

theorem saoCardinality_zero : saoCardinality (0#w) = 0 := by
  rw [saoCardinality_eq_card, Finset.card_eq_zero, Finset.eq_empty_iff_forall_notMem]
  exact fun j hj => Bool.false_ne_true (BitVec.getLsbD_zero.symm.trans (mem_elements.1 hj).2)

/-- The full set is the complement of the empty one, so it has the elements that the empty one lacks. -/
theorem saoCardinality_full : saoCardinality (BitVec.ofNat w (2 ^ w - 1)) = w := by
  have hsplit := saoCardinality_add_saoCardinality_saoComplement (0#w)
  rwa [saoCardinality_zero, Nat.zero_add, saoComplement_zero] at hsplit

/-- The empty set is included in every set (R226). -/
theorem saoIsSubset_zero_left (b : SetWord w) : saoIsSubset (0#w) b = true :=
  (saoIsSubset_iff _ _).2 fun _ _ h => absurd (BitVec.getLsbD_zero.symm.trans h) Bool.false_ne_true

/-- The empty set includes the empty set only (R227). -/
theorem saoIsSuperset_zero_left (b : SetWord w) : saoIsSuperset (0#w) b = decide (b = 0#w) := by
  rw [saoIsSuperset, bpeAnd, BitVec.zero_and, Bool.eq_iff_iff, beq_iff_eq, decide_eq_true_iff, eq_comm]

/-! ## The transactions of these commands -/

section
variable {s : State} {x y v : SetWord s.params.W} {f : Bool}

theorem givesSet_union (hl : s.params.Legal) (h : saoUnion x y = v) : GivesSet s .union x y v :=
  gives_of_commandResponse hl rfl (congrArg (setResponse true) h)

theorem givesSet_inter (hl : s.params.Legal) (h : saoIntersection x y = v) : GivesSet s .inter x y v :=
  gives_of_commandResponse hl rfl (congrArg (setResponse true) h)

theorem givesSet_compl (hl : s.params.Legal) (h : saoComplement x = v) : GivesSet s .compl x y v :=
  gives_of_commandResponse hl rfl (congrArg (setResponse true) h)

theorem givesSet_symdiff (hl : s.params.Legal) (h : saoSymmetricDifference x y = v) : GivesSet s .symdiff x y v :=
  gives_of_commandResponse hl rfl (congrArg (setResponse true) h)

theorem givesFlag_issub (hl : s.params.Legal) (h : saoIsSubset x y = f) : GivesFlag s .issub x y f :=
  gives_of_commandResponse hl rfl (congrArg (flagResponse true) h)

theorem givesFlag_issuper (hl : s.params.Legal) (h : saoIsSuperset x y = f) : GivesFlag s .issuper x y f :=
  gives_of_commandResponse hl rfl (congrArg (flagResponse true) h)

end

/-! ## The obligations -/

/-- Settles O52: each chain of transactions computes one side of a law of `saoUnion` and `saoIntersection`. -/
theorem unionIntersectionLaws : Obligations.UnionIntersectionLaws := by
  intro s x y z hl
  have union {a b v : SetWord s.params.W} (h : saoUnion a b = v) := givesSet_union hl h
  have inter {a b v : SetWord s.params.W} (h : saoIntersection a b = v) := givesSet_inter hl h
  exact ⟨union (saoUnion_self x), inter (saoIntersection_self x),
    ⟨_, union rfl, union (saoUnion_comm y x)⟩,
    ⟨_, inter rfl, inter (saoIntersection_comm y x)⟩,
    ⟨_, _, _, union rfl, union (saoUnion_assoc x y z), union rfl, union rfl⟩,
    ⟨_, _, _, inter rfl, inter (saoIntersection_assoc x y z), inter rfl, inter rfl⟩,
    ⟨_, _, _, _, union rfl, inter (saoIntersection_saoUnion_distrib x y z), inter rfl, inter rfl, union rfl⟩,
    ⟨_, _, _, _, inter rfl, union (saoUnion_saoIntersection_distrib x y z), union rfl, union rfl, inter rfl⟩⟩

/-- Settles O53, as O52 with the laws of `saoComplement`. -/
theorem complementLaws : Obligations.ComplementLaws := by
  intro s x y z hl
  have compl {a v : SetWord s.params.W} (h : saoComplement a = v) := givesSet_compl (y := z) hl h
  exact ⟨⟨_, compl rfl, compl (saoComplement_saoComplement x)⟩,
    ⟨_, _, _, _, givesSet_union hl rfl, compl (saoComplement_saoUnion x y), compl rfl, compl rfl,
      givesSet_inter hl rfl⟩,
    ⟨_, _, _, _, givesSet_inter hl rfl, compl (saoComplement_saoIntersection x y), compl rfl, compl rfl,
      givesSet_union hl rfl⟩⟩

/-- Settles O54: the two inclusion tests are the same question by `saoIsSuperset_swap`. -/
theorem symmetricDifferenceAndInclusionLaws : Obligations.SymmetricDifferenceAndInclusionLaws := fun _ x y hl =>
  ⟨⟨_, givesSet_symdiff hl rfl, givesSet_symdiff hl (saoSymmetricDifference_comm y x)⟩,
    givesSet_symdiff hl (saoSymmetricDifference_self x),
    ⟨_, givesFlag_issub hl rfl, givesFlag_issuper hl (saoIsSuperset_swap x y)⟩⟩

/-- Settles O55: each transaction gives the value of its function on the empty or on the full set. -/
theorem boundaryBehaviours : Obligations.BoundaryBehaviours := by
  intro s y z hl
  refine ⟨?cardEmpty, ?cardFull, givesFlag_issub hl (saoIsSubset_zero_left y), fun hy => givesFlag_issuper hl ?nonempty,
    fun hy => givesFlag_issuper hl ?empty, gives_of_commandResponse hl rfl ?min, gives_of_commandResponse hl rfl ?max⟩
  case cardEmpty => exact saoCardinality_zero (w := s.params.W) ▸ givesCnt_card hl
  case cardFull => exact givesCnt_of_commandResponse hl rfl le_rfl (congrArg (cntResponse true) saoCardinality_full)
  case nonempty => exact (saoIsSuperset_zero_left y).trans (decide_eq_false hy)
  case empty => exact (saoIsSuperset_zero_left y).trans (decide_eq_true hy)
  case min => exact congrArg (cntOrErrorResponse true) (saoMin_zero (w := s.params.W))
  case max => exact congrArg (cntOrErrorResponse true) (saoMax_zero (w := s.params.W))

end Sys2Proof.Machine

/-! # Errors, the trace record and the refused parameters (O37, O38, O40, O42, O3) -/

namespace Sys2Proof.Machine

variable {w : Nat}

/-! ## The error of a command and of a request -/

/-- The error a command raises on the operand `a` (R241, R242); `commandResponse_err` says that `err` shows it. -/
def dataError (i : Instr) (a : SetWord w) : Option Error :=
  match i with
  | .min | .max => if a = 0#w then some .emptySet else none
  | .extract st len | .extsub st len => if w < st + len then some .invalidRange else none
  | _ => none

/-- What `err` carries for an error, or for none (R240). -/
def errWordOf (e? : Option Error) : ErrWord := e?.elim errOk errCode

/-- The error that a code stands for, if any (R240). -/
def errorOfWord (c : ErrWord) : Option Error :=
  match c.toNat with
  | 0 => none
  | 1 => some .emptySet
  | 2 => some .invalidRange
  | _ => some .illegalOp

theorem errorOfWord_errWordOf (e? : Option Error) : errorOfWord (errWordOf e?) = e? := by
  rcases e? with _ | _ | _ | _ <;> rfl

theorem errWordOf_injective : Function.Injective errWordOf :=
  Function.LeftInverse.injective errorOfWord_errWordOf

theorem extract_err (a : SetWord w) (valid : Bool) (st len : Nat) :
    (setOrErrorResponse valid (bpeExtract a st len)).err =
      errWordOf (if w < st + len then some .invalidRange else none) := by
  unfold bpeExtract
  split <;> rfl

theorem saoMin_err (a : SetWord w) (valid : Bool) :
    (cntOrErrorResponse valid (saoMin a) : Response w).err = errWordOf (if a = 0#w then some .emptySet else none) := by
  unfold saoMin
  split <;> rfl

theorem saoMax_err (a : SetWord w) (valid : Bool) :
    (cntOrErrorResponse valid (saoMax a) : Response w).err = errWordOf (if a = 0#w then some .emptySet else none) := by
  unfold saoMax
  split <;> rfl

/-- Four commands can fail, each as `dataError` says; the others have a successful response by their form (R245). -/
theorem commandResponse_err (i : Instr) (p : Params) (q : Request p.W) :
    (commandResponse i p q).err = errWordOf (dataError i q.a) := by
  cases i with
  | min => exact saoMin_err q.a q.valid
  | max => exact saoMax_err q.a q.valid
  | extract st len | extsub st len => exact extract_err q.a q.valid st len
  | _ => rfl

/-- The error of the transaction of a request: none without one, ILLEGAL_OP for a word that is no command, else that of
the command (R28, R243); `requestResponse_err` says that `err` shows it. -/
def requestError (q : Request w) : Option Error :=
  if q.valid then
    match decode q.cmd with
    | .ok i => dataError i q.a
    | .error _ => some .illegalOp
  else none

theorem requestError_of_ok {q : Request w} {i : Instr} (hv : q.valid = true) (hd : decode q.cmd = .ok i) :
    requestError q = dataError i q.a := by
  simp only [requestError, hv, hd, if_true]

theorem requestError_of_error {q : Request w} {e : DecodeError} (hv : q.valid = true)
    (hd : decode q.cmd = .error e) : requestError q = some .illegalOp := by
  simp only [requestError, hv, hd, if_true]

theorem requestError_of_idle {q : Request w} (hv : q.valid = false) : requestError q = none := if_neg (by simp [hv])

theorem requestResponse_err (p : Params) (q : Request p.W) :
    (requestResponse p q).err = errWordOf (requestError q) := by
  cases hv : q.valid with
  | false =>
    rw [requestResponse_of_none (requestedCommand_of_idle hv), requestError_of_idle hv, hv]
    rfl
  | true =>
    cases hd : decode q.cmd with
    | ok i =>
      rw [requestResponse_of_some (requestedCommand_of_ok hv hd), requestError_of_ok hv hd, commandResponse_err]
    | error e =>
      rw [requestResponse_of_none (requestedCommand_of_error hd), requestError_of_error hv hd, if_pos hv]
      rfl

/-- The code on `err` tells which error there was, if any. -/
theorem requestResponse_err_eq_iff {p : Params} {q : Request p.W} (e? : Option Error) :
    (requestResponse p q).err = errWordOf e? ↔ requestError q = e? := by
  rw [requestResponse_err, errWordOf_injective.eq_iff]

/-! ## Where each error comes from -/

theorem dataError_eq_emptySet_iff {i : Instr} {a : SetWord w} :
    dataError i a = some .emptySet ↔ (i = .min ∨ i = .max) ∧ a = 0#w := by
  cases i <;> simp [dataError]

theorem dataError_eq_invalidRange_iff {i : Instr} {a : SetWord w} :
    dataError i a = some .invalidRange ↔ ∃ st len, (i = .extract st len ∨ i = .extsub st len) ∧ w < st + len := by
  cases i <;> simp [dataError]

theorem dataError_ne_illegalOp (i : Instr) (a : SetWord w) : dataError i a ≠ some .illegalOp := by
  cases i <;> simp [dataError]

/-- An error other than ILLEGAL_OP is the one of a decoded command. -/
theorem requestError_eq_some_iff {q : Request w} {e : Error} (hv : q.valid = true) (he : e ≠ .illegalOp) :
    requestError q = some e ↔ ∃ i, decode q.cmd = .ok i ∧ dataError i q.a = some e := by
  cases hd : decode q.cmd with
  | ok i => simp [requestError_of_ok hv hd]
  | error _ => simp [requestError_of_error hv hd, he.symm]

/-- ILLEGAL_OP is the error of the requests whose word is no command (R243). -/
theorem requestError_eq_illegalOp_iff {q : Request w} :
    requestError q = some .illegalOp ↔ q.valid = true ∧ ¬ ∃ i, decode q.cmd = .ok i := by
  cases hv : q.valid with
  | false => simp [requestError_of_idle hv]
  | true =>
    cases hd : decode q.cmd with
    | ok i => simp [requestError_of_ok hv hd, dataError_ne_illegalOp]
    | error e => simp [requestError_of_error hv hd]

/-! ## The words of the commands that can fail -/

/-- `decode_eq_ok_iff` by numbers: the low byte is the opcode, since `rsv` is 0 (R61, R66, R68). -/
theorem decode_eq_ok_iff_toNat {c : CmdWord} {i : Instr} :
    decode c = .ok i ↔ c.toNat % 2 ^ 8 = i.opcode.toNat ∧
      i.count1 = (if i.format.readsN1 then c.toNat / 2 ^ 8 % 2 ^ 16 else 0) ∧
      i.count2 = (if i.format.readsN2 then c.toNat / 2 ^ 24 else 0) := by
  have hbyte : cmdOpc c = i.opcode ∧ cmdRsv c = 0#2 ↔ c.toNat % 2 ^ 8 = i.opcode.toNat := by
    have := i.opcode.isLt
    rw [← BitVec.toNat_inj, ← BitVec.toNat_inj, cmdOpc_toNat, cmdRsv_toNat, BitVec.toNat_ofNat]
    omega
  rw [decode_eq_ok_iff, ← and_assoc, hbyte, cmdN1_toNat, cmdN2_toNat]

theorem decode_eq_min_iff {c : CmdWord} : decode c = .ok .min ↔ c.toNat % 2 ^ 8 = 0x29 :=
  decode_eq_ok_iff_toNat.trans (and_iff_left ⟨rfl, rfl⟩)

theorem decode_eq_max_iff {c : CmdWord} : decode c = .ok .max ↔ c.toNat % 2 ^ 8 = 0x2A :=
  decode_eq_ok_iff_toNat.trans (and_iff_left ⟨rfl, rfl⟩)

theorem decode_eq_extract_iff {c : CmdWord} {st len : Nat} :
    decode c = .ok (.extract st len) ↔
      c.toNat % 2 ^ 8 = 0x0B ∧ st = c.toNat / 2 ^ 8 % 2 ^ 16 ∧ len = c.toNat / 2 ^ 24 := decode_eq_ok_iff_toNat

theorem decode_eq_extsub_iff {c : CmdWord} {st len : Nat} :
    decode c = .ok (.extsub st len) ↔
      c.toNat % 2 ^ 8 = 0x32 ∧ st = c.toNat / 2 ^ 8 % 2 ^ 16 ∧ len = c.toNat / 2 ^ 24 := decode_eq_ok_iff_toNat

/-- EMPTY_SET by the low byte of the word and the operand (R241). -/
theorem requestError_eq_emptySet_iff {q : Request w} (hv : q.valid = true) :
    requestError q = some .emptySet ↔
      (q.cmd.toNat % 2 ^ 8 = 0x29 ∨ q.cmd.toNat % 2 ^ 8 = 0x2A) ∧ q.a = 0#w := by
  rw [requestError_eq_some_iff hv (by decide), ← decode_eq_min_iff, ← decode_eq_max_iff]
  simp only [dataError_eq_emptySet_iff]
  constructor
  · rintro ⟨i, hd, rfl | rfl, ha⟩
    · exact ⟨.inl hd, ha⟩
    · exact ⟨.inr hd, ha⟩
  · rintro ⟨hd | hd, ha⟩
    · exact ⟨_, hd, .inl rfl, ha⟩
    · exact ⟨_, hd, .inr rfl, ha⟩

/-- INVALID_RANGE by the low byte of the word and the exact sum of its count fields (R242). -/
theorem requestError_eq_invalidRange_iff {q : Request w} (hv : q.valid = true) :
    requestError q = some .invalidRange ↔
      (q.cmd.toNat % 2 ^ 8 = 0x0B ∨ q.cmd.toNat % 2 ^ 8 = 0x32) ∧
        w < q.cmd.toNat / 2 ^ 8 % 2 ^ 16 + q.cmd.toNat / 2 ^ 24 := by
  rw [requestError_eq_some_iff hv (by decide)]
  simp only [dataError_eq_invalidRange_iff]
  constructor
  · rintro ⟨i, hd, st, len, rfl | rfl, hlt⟩
    · obtain ⟨hc, rfl, rfl⟩ := decode_eq_extract_iff.1 hd
      exact ⟨.inl hc, hlt⟩
    · obtain ⟨hc, rfl, rfl⟩ := decode_eq_extsub_iff.1 hd
      exact ⟨.inr hc, hlt⟩
  · rintro ⟨hc | hc, hlt⟩
    · exact ⟨_, decode_eq_extract_iff.2 ⟨hc, rfl, rfl⟩, _, _, .inl rfl, hlt⟩
    · exact ⟨_, decode_eq_extsub_iff.2 ⟨hc, rfl, rfl⟩, _, _, .inr rfl, hlt⟩

/-! ## Failed transactions -/

/-- What the ports carry beside an error code is fixed: the consistency of the response leaves no other value (R246). -/
theorem ResponseConsistent.eq_of_err_ne_zero {r : Response w} (hr : ResponseConsistent r) (h : r.err ≠ 0) :
    r = { valid := true, rset := 0, rcnt := 0, rflag := false, err := r.err } := by
  obtain ⟨hfail, -, -, hidle, -⟩ := hr
  obtain ⟨valid, rset, rcnt, rflag, err⟩ := r
  obtain ⟨rfl, rfl, rfl⟩ := hfail h
  cases valid with
  | true => rfl
  | false =>
    obtain ⟨-, -, -, hok⟩ := hidle rfl
    exact absurd hok h

/-- A failed transaction leaves no record (R246, R256). -/
theorem tracePorts_of_err_ne_zero {i? : Option Instr} {q : Request w} {r : Response w} (h : r.err ≠ 0) :
    tracePorts i? q r = quietTrace r := by
  cases i? with
  | none => rfl
  | some i => exact if_neg fun hc => h (beq_iff_eq.1 (Bool.and_eq_true_iff.1 hc).2)

/-! ## The trace record -/

/-- A record is there for a command only, and shows what the command's format reads (R256). -/
theorem tracePorts_of_valid {i? : Option Instr} {q : Request w} {r : Response w}
    (h : (tracePorts i? q r).valid = true) :
    ∃ i, i? = some i ∧ (tracePorts i? q r).cmd = tracedCmd i.format q ∧ (tracePorts i? q r).a = q.a ∧
      (tracePorts i? q r).b = tracedB i.format q := by
  cases i? with
  | none => exact Bool.noConfusion h
  | some i =>
    refine ⟨i, rfl, ?_⟩
    by_cases hc : (q.valid && r.err == errOk) = true
    · rw [tracePorts, if_pos hc]
      exact ⟨rfl, rfl, rfl⟩
    · rw [tracePorts, if_neg hc] at h
      exact Bool.noConfusion h

/-- The word with the ignored fields 0, as a number (R61, R64). -/
theorem keep_toNat (f : Format) (c : CmdWord) :
    (f.keep c).toNat = c.toNat % 2 ^ 8 + (if f.readsN1 then c.toNat / 2 ^ 8 % 2 ^ 16 * 2 ^ 8 else 0) +
      (if f.readsN2 then c.toNat / 2 ^ 24 * 2 ^ 24 else 0) := by
  rw [Format.keep, cmdOfFields_toNat, apply_ite BitVec.toNat, apply_ite BitVec.toNat, cmdN2_toNat, cmdN1_toNat,
    cmdRsv_toNat, cmdOpc_toNat, BitVec.toNat_ofNat, Nat.zero_mod, ite_mul, ite_mul, zero_mul, zero_mul]
  omega

theorem decode_of_requestedCommand {q : Request w} {i : Instr} (h : requestedCommand q = some i) :
    decode q.cmd = .ok i := by
  rw [requestedCommand, if_pos (valid_of_requestedCommand h)] at h
  cases hd : decode q.cmd with
  | ok j => rw [hd] at h; cases h; rfl
  | error e => rw [hd] at h; cases h

/-! ## The obligations -/

/-- Settles O37: each code stands for one error, and each error is known by the word and the operand. A command that is
none of the four can raise neither data error, and no command raises ILLEGAL_OP. -/
theorem dataErrorsExactlyWhereNamed : Obligations.DataErrorsExactlyWhereNamed := by
  intro s hl hv
  have hempty := requestError_eq_emptySet_iff hv
  have hrange := requestError_eq_invalidRange_iff hv
  refine ⟨_, _, step_eq_outputs hl, (requestResponse_err_eq_iff (some .emptySet)).trans hempty,
    (requestResponse_err_eq_iff (some .invalidRange)).trans hrange,
    fun i hd hother => (requestResponse_err_eq_iff none).2 ?_⟩
  simp only [List.mem_cons, List.not_mem_nil, or_false] at hother
  cases he : requestError s.req with
  | none => rfl
  | some e =>
    cases e with
    | emptySet => obtain ⟨hbyte, -⟩ := hempty.1 he; tauto
    | invalidRange => obtain ⟨hbyte, -⟩ := hrange.1 he; tauto
    | illegalOp => exact absurd ⟨i, hd⟩ (requestError_eq_illegalOp_iff.1 he).2

/-- Settles O38: the ports of the failed transaction are fixed by its code, and the trace has no record. -/
theorem failedTransactionHasNoEffect : Obligations.FailedTransactionHasNoEffect := by
  intro s t hs he
  by_cases hl : s.params.Legal
  · rw [step_eq_outputs hl] at hs
    cases hs
    have hrsp := (responseConsistent_requestResponse s.params s.req).eq_of_err_ne_zero he
    rw [requestTrace, tracePorts_of_err_ne_zero he, hrsp]
    rfl
  · rw [step_of_not_legal hl] at hs
    cases hs

/-- Settles O40: code 3 stands for ILLEGAL_OP, and O15 says which words are no command. -/
theorem illegalOpOnlyFromIllegalWord : Obligations.IllegalOpOnlyFromIllegalWord := by
  intro s t hs
  by_cases hl : s.params.Legal
  · rw [step_eq_outputs hl] at hs
    cases hs
    refine (requestResponse_err_eq_iff (some .illegalOp)).trans ?_
    rw [requestError_eq_illegalOp_iff, everyWordIsAssignedOrIllegal, not_and_or, not_not]
  · rw [step_of_not_legal hl] at hs
    cases hs

/-- Settles O42: the trace ports belong to the response, and a record shows what the opcodes of R62 read. -/
theorem traceRecordOfTransaction : Obligations.TraceRecordOfTransaction := by
  intro s hl
  refine ⟨_, _, step_eq_outputs hl, fun ht => if_neg (by simp [ht]), fun ht => ⟨_, if_pos ht, ?_⟩⟩
  obtain ⟨hset, hcnt, hflag, hvalid, hquiet⟩ := traceConsistent_tracePorts (i? := requestedCommand s.req)
    (requestResponse_valid s.params s.req) requestResponse_err_ne_zero
  rw [requestResponse_valid] at hvalid
  refine ⟨hvalid, fun hrecord => ?_, hquiet, hset, hcnt, hflag⟩
  obtain ⟨i, hi, hcmd, ha, hb⟩ := tracePorts_of_valid hrecord
  obtain ⟨hreadB, hread₁, hread₂⟩ := reads_of_decode (decode_of_requestedCommand hi)
  rw [hcmd, ha, hb, tracedCmd, keep_toNat, tracedB]
  simp only [hreadB, hread₁, hread₂]
  exact ⟨trivial, trivial, rfl⟩

/-- Settles O3: a step is refused exactly if the parameters are not legal. -/
theorem parametersOutsideBoundsRefused : Obligations.ParametersOutsideBoundsRefused := by
  intro s
  have hrefused : step s = .refused .illegalParameters ↔ ¬ s.params.Legal := by
    refine ⟨fun hs hl => ?_, step_of_not_legal⟩
    rw [step_of_legal hl] at hs
    cases hs
  rw [hrefused, Params.Legal]
  omega

end Sys2Proof.Machine
